-- ==== Sys2Proof/Word.lean ====
section
/-!
DEFINITION. The word types of the CORE and the parameters the document fixes (spec/00_scope.md R4, spec/10_state.md R15 to R22).
All values are unsigned (spec/00_scope.md section 6).
-/
namespace Sys2Proof

/-- A symbol field, `SYM_W` = 9 bits (R4, R70). -/
abbrev Sym := BitVec 9

/-- A node index, `IDX_W` = 10 bits (R5, R15). -/
abbrev Idx := BitVec 10

/-- A tie-break sequence number, `SEQ_W` = 10 bits (R5, R18). -/
abbrev Seq10 := BitVec 10

/-- A frequency counter (R14). The configured `COUNT_W` says how many of the 32 bits count (R5, R84). -/
abbrev Count := BitVec 32

/-- A node weight, `WEIGHT_W` = 40 bits (R5, R101). -/
abbrev Weight := BitVec 40

/-- A code length, `LEN_W` = 9 bits (R5, R19). -/
abbrev Len := BitVec 9

/-- A stored code, `CODE_MAX` = 256 bits, right-aligned (R5, R19). -/
abbrev CodeBits := BitVec 256

/-- A register of the host port, `REG_W` = 64 bits (R5, R60). -/
abbrev Reg := BitVec 64

/-- `ALPHABET`: the number of symbols (R4). -/
abbrev alphabet : Nat := 257

/-- `EOS`: the end-of-stream symbol (R4). -/
abbrev eosSym : Sym := 256#9

/-- The number of places that a 10-bit node index can name. -/
abbrev arenaSize : Nat := 1024

end Sys2Proof
end

