-- ==== Sys2Proof/Config.lean ====
section
/-!
DEFINITION. The configuration of the machine (spec/00_scope.md R5; spec/92_eei_decisions.md, "Parameters a model may take as
arguments") and the free values: what the spec leaves unspecified and nothing may constrain.
-/
namespace Sys2Proof

/-- The parameters of R5 that a model may take as arguments. They are configuration, not state (R10): no step changes them. -/
structure Config where
  /-- `MAGIC`, OPEN (D5): no rule depends on its value. -/
  magic : BitVec 32
  /-- `COUNT_W` (D7); `WEIGHT_W` stays 40, so at most 32. -/
  countW : Nat
  /-- `NODE_CAP` (D8). -/
  nodeCap : Nat
  /-- `PLACEHOLDER_SYM` (D4). -/
  placeholderSym : Sym
  /-- `PAD_BIT` (D12). -/
  padBit : Bool
  deriving DecidableEq, Repr

/-- The values of R5. PRESUMED (the spec's own mark, G1 and G2 of 93_implementation_defined.md): `MAGIC` and `PAD_BIT`
come from general knowledge, not from the source document. Assumption 1. -/
def Config.standard : Config :=
  { magic := 0xFACE8201#32, countW := 32, nodeCap := 1023, placeholderSym := 0#9, padBit := false }

/-- `CMAX = 2^COUNT_W − 1` (R5). -/
def Config.cmax (c : Config) : Nat := 2 ^ c.countW - 1

/-- The constraints that 92_eei_decisions.md puts on the parameters: `WEIGHT_W >= COUNT_W + 8`, `513 <= NODE_CAP < 2^IDX_W`,
`PLACEHOLDER_SYM` in 0..255; a counter has at least one bit. -/
def Config.wf (c : Config) : Bool :=
  decide (1 ≤ c.countW) && decide (c.countW + 8 ≤ 40) && decide (513 ≤ c.nodeCap) && decide (c.nodeCap < 1024)
    && decide (c.placeholderSym.toNat < 256)

/-- The places at which the spec leaves a value unspecified. -/
inductive Place where
  | freq (s : Nat)
  | nodeLeaf (i : Nat)
  | nodeSym (i : Nat)
  | nodeWeight (i : Nat)
  | nodeLeft (i : Nat)
  | nodeRight (i : Nat)
  | codeLen (s : Nat)
  | codeBits (s : Nat)
  | workW
  | workEos
  | workM
  | workEntry (which field : Nat)
  | workPathBits
  | workPathLen
  | workMacro
  | srcData
  | window (addr : Nat)
  | abandonedPos
  | abandonedCount
  | abandonedBits
  | abandonedClose
  deriving DecidableEq, Repr

/-- The free values: the value of width `w` that appears at a place in draw number `k`. It has no body, so nothing can be
proved about any value of it (U1, U2, U4, U5, U13 of 93_implementation_defined.md). Assumptions 3 to 7 and 12. -/
opaque Config.free : (w : Nat) → Place → (k : Nat) → BitVec w

end Sys2Proof
end

