-- ==== Sys2Proof/Syntax.lean ====
section
/-!
DEFINITION. The syntax: one constructor for each of the twenty rows of spec/opcode_table.json.
-/
namespace Sys2Proof

/-- What the CORE executes. The first seventeen are writes to `CMD` (spec/30_encoding.md R62 to R64); the last three are the
stream tokens (R69 to R71), which the header reader and writer and the magic check take one at a time. -/
inductive Instr where
  /-- `ANALYZE`, op 0x1 (R83). -/
  | analyze
  /-- `BUILD`, op 0x2 (R92). -/
  | build
  /-- `GENCODES`, op 0x3 (R107). -/
  | gencodes
  /-- `WRMAGIC`, op 0x4 (R147). -/
  | wrmagic
  /-- `WRHDR`, op 0x5 (R115). -/
  | wrhdr
  /-- `ENCBODY`, op 0x6 (R133). -/
  | encbody
  /-- `CLOSE`, op 0x7 (R149). -/
  | close
  /-- `RDMAGIC`, op 0x8 (R148). -/
  | rdmagic
  /-- `RDHDR`, op 0x9 (R122). -/
  | rdhdr
  /-- `DECBODY`, op 0xA (R140). -/
  | decbody
  /-- `COMPRESS`, op 0xB (R151). -/
  | compress
  /-- `DECOMPRESS`, op 0xC (R152). -/
  | decompress
  /-- `CLEAR`, op 0xD (R150). -/
  | clear
  /-- The illegal command word 0x0 (R64). -/
  | illegal0
  /-- The illegal command word 0xE (R64). -/
  | illegalE
  /-- The illegal command word 0xF (R64). -/
  | illegalF
  /-- Every command word with a nonzero bit in [63:4], whatever its op (R64). -/
  | illegalDefault (v : Reg)
  /-- The header token of an internal node: the bit 0 (R69). -/
  | hdrNode
  /-- The header token of a leaf: the bit 1, then the 9-bit symbol (R69, R70). -/
  | hdrLeaf (sym : Sym)
  /-- The magic field: the 32 bits of `MAGIC` (R71). -/
  | fileMagic
  deriving DecidableEq, Repr

end Sys2Proof
end

