-- ==== Sys2Proof/WellFormed.lean ====
section
/-!
DEFINITION. Well-formed instructions: an `ILLEGAL_DEFAULT` word is one that no other row matches (spec/30_encoding.md R64).
Every other row takes every operand its type admits: the 9-bit symbol of a leaf token may be any of 0 to 511 (R70).
-/
namespace Sys2Proof

/-- Does a command word have a nonzero bit in [63:4] (R62, R64)? -/
def upperBitsSet (v : Reg) : Bool := decide (v.toNat / 16 ≠ 0)

/-- The instructions that some encoding stands for. -/
def WellFormed (i : Instr) : Bool :=
  match i with
  | .illegalDefault v => upperBitsSet v
  | .analyze | .build | .gencodes | .wrmagic | .wrhdr | .encbody | .close | .rdmagic | .rdhdr | .decbody
  | .compress | .decompress | .clear | .illegal0 | .illegalE | .illegalF | .hdrNode | .hdrLeaf _ | .fileMagic => true

end Sys2Proof
end

