-- ==== Sys2Proof/Decode.lean ====
section
/-!
DEFINITION. The decoder and the encoder (spec/30_encoding.md R62 to R64, R69 to R71), and the bit order of the streams
(spec/20_memory.md R42, R44, R47) that both are written in.
-/
namespace Sys2Proof

/-! ## Bit strings in stream order -/

/-- The low `n` bits of `v` in stream order: bit `n − 1` first (R44, R47). -/
def msbBits {w : Nat} (n : Nat) (v : BitVec w) : List Bool :=
  match n with
  | 0 => []
  | n + 1 => v.getLsbD n :: msbBits n v

/-- The number that a bit string in stream order stands for, after the bits before it gave `acc`:
`v <- (v << 1) | bit` for each bit (R42). -/
def ofMsbBits (acc : Nat) (bits : List Bool) : Nat :=
  match bits with
  | [] => acc
  | b :: bs => ofMsbBits (2 * acc + b.toNat) bs

/-! ## Encoded forms -/

/-- How an instruction is encoded: a word written to `CMD` (R62), the bits of a header token (R69) or of the magic field
(R71) in stream order. -/
inductive Code where
  | cmd (v : Reg)
  | token (bits : List Bool)
  | magicField (bits : List Bool)
  deriving DecidableEq, Repr

/-- Why a bit string of a stream is no token or no magic field. No command word is ever rejected here: an illegal one
is an instruction whose effect is the error `IllegalCmd` (R64). -/
inductive DecodeError where
  /-- No bit is left for the flag of a token (R124). -/
  | truncatedFlag
  /-- The flag is 1 and fewer than nine bits follow (R124). -/
  | truncatedSymbol
  /-- Fewer than 32 bits are left for the magic field (R148). -/
  | truncatedMagic
  /-- The 32 bits are not `MAGIC` (R71, R148). -/
  | badMagic
  deriving DecidableEq, Repr

/-! ## Decoding -/

/-- The opcode map (R63, R64). Total: every word is one of the seventeen command rows of the table. -/
def decodeCmd (v : Reg) : Instr :=
  if upperBitsSet v then .illegalDefault v
  else
    match v.toNat % 16 with
    | 0x1 => .analyze
    | 0x2 => .build
    | 0x3 => .gencodes
    | 0x4 => .wrmagic
    | 0x5 => .wrhdr
    | 0x6 => .encbody
    | 0x7 => .close
    | 0x8 => .rdmagic
    | 0x9 => .rdhdr
    | 0xA => .decbody
    | 0xB => .compress
    | 0xC => .decompress
    | 0xD => .clear
    | 0xE => .illegalE
    | 0xF => .illegalF
    | _ => .illegal0

/-- The header token at the front of a bit string, told from its first bit, and what follows it (R69). -/
def decodeToken (bits : List Bool) : Except DecodeError (Instr × List Bool) :=
  match bits with
  | [] => .error .truncatedFlag
  | false :: rest => .ok (.hdrNode, rest)
  | true :: rest =>
    if 9 ≤ rest.length then .ok (.hdrLeaf (BitVec.ofNat 9 (ofMsbBits 0 (rest.take 9))), rest.drop 9)
    else .error .truncatedSymbol

/-- The magic field at the front of a bit string, and what follows it (R71). -/
def decodeMagic (magic : BitVec 32) (bits : List Bool) : Except DecodeError (Instr × List Bool) :=
  if 32 ≤ bits.length then
    if BitVec.ofNat 32 (ofMsbBits 0 (bits.take 32)) = magic then .ok (.fileMagic, bits.drop 32)
    else .error .badMagic
  else .error .truncatedMagic

/-- The decoder of all three forms: the instruction and the stream bits that follow it. -/
def decode (magic : BitVec 32) (c : Code) : Except DecodeError (Instr × List Bool) :=
  match c with
  | .cmd v => .ok (decodeCmd v, [])
  | .token bits => decodeToken bits
  | .magicField bits => decodeMagic magic bits

/-! ## Encoding -/

/-- The encoder, from the same tables (R62 to R64, R69 to R71). -/
def encode (magic : BitVec 32) (i : Instr) : Code :=
  match i with
  | .analyze => .cmd 0x1#64
  | .build => .cmd 0x2#64
  | .gencodes => .cmd 0x3#64
  | .wrmagic => .cmd 0x4#64
  | .wrhdr => .cmd 0x5#64
  | .encbody => .cmd 0x6#64
  | .close => .cmd 0x7#64
  | .rdmagic => .cmd 0x8#64
  | .rdhdr => .cmd 0x9#64
  | .decbody => .cmd 0xA#64
  | .compress => .cmd 0xB#64
  | .decompress => .cmd 0xC#64
  | .clear => .cmd 0xD#64
  | .illegal0 => .cmd 0x0#64
  | .illegalE => .cmd 0xE#64
  | .illegalF => .cmd 0xF#64
  | .illegalDefault v => .cmd v
  | .hdrNode => .token [false]
  | .hdrLeaf sym => .token (true :: msbBits 9 sym)
  | .fileMagic => .magicField (msbBits 32 magic)

/-- An encoded form followed by further bits of its stream; a command word has nothing after it (R62). -/
def Code.followedBy (c : Code) (rest : List Bool) : Code :=
  match c with
  | .cmd v => .cmd v
  | .token bits => .token (bits ++ rest)
  | .magicField bits => .magicField (bits ++ rest)

/-- The bits that follow the instruction in its own form: none after a command word. -/
def Code.remainder (c : Code) (rest : List Bool) : List Bool :=
  match c with
  | .cmd _ => []
  | .token _ => rest
  | .magicField _ => rest

/-- The length in bits of an encoded form. -/
def Code.width (c : Code) : Nat :=
  match c with
  | .cmd _ => 64
  | .token bits => bits.length
  | .magicField bits => bits.length

/-! ## The opcode table's words -/

/-- The instruction when the whole bit string is one token or field, nothing left over. -/
def wholeOnly (r : Except DecodeError (Instr × List Bool)) : Option Instr :=
  match r with
  | .ok (i, []) => some i
  | .ok (_, _ :: _) => none
  | .error _ => none

/-- The encoded form of a word of the opcode table. A command is 64 bits and the magic field 32. A token row's pattern is
read as one number whose most significant bit is the first bit of the stream: the one bit of `HDR.NODE` (1 bit, one
byte), the ten bits of `HDR.LEAF` (10 bits, two bytes). Assumption 25. -/
def tableCode (nbits w : Nat) : Option Code :=
  if nbits = 64 ∧ w < 2 ^ 64 then some (.cmd (BitVec.ofNat 64 w))
  else if nbits = 32 ∧ w < 2 ^ 32 then some (.magicField (msbBits 32 (BitVec.ofNat 32 w)))
  else if (nbits = 8 ∨ nbits = 1) ∧ w < 2 then some (.token (msbBits 1 (BitVec.ofNat 1 w)))
  else if (nbits = 16 ∨ nbits = 10) ∧ w < 2 ^ 10 then some (.token (msbBits 10 (BitVec.ofNat 10 w)))
  else none

/-- What the decoder reads from a word of the opcode table; the magic field is the standard `MAGIC` of R5. -/
def decodeTableWord (nbits w : Nat) : Option Instr :=
  match tableCode nbits w with
  | some c => wholeOnly (decode Config.standard.magic c)
  | none => none

end Sys2Proof
end

