-- ==== Sys2Proof/Machine/State.lean ====
section
/-!
DEFINITION. The state of the machine (spec/10_state.md R10 to R24, spec/20_memory.md R41, R44), as plain data, and its value at
reset (R24, R190).
-/
namespace Sys2Proof.Machine

/-- The sequencer's phase (R11). The codes 11 to 14 never occur (U11), so they have no constructor. -/
inductive Phase where
  | idle | analyze | build | gencodes | wrmagic | wrhdr | encbody | close | rdmagic | rdhdr | decbody | error
  deriving DecidableEq, Repr

/-- The error kinds (spec/60_exceptions.md R171). The codes 10 to 15 never occur (U11). -/
inductive ErrKind where
  | badMagic | truncatedHeader | truncatedBody | countOverflow | noCode | treeOverflow | badTree | illegalCmd | sequence
  deriving DecidableEq, Repr

/-- Who made the tree in the arena (R13). -/
inductive Origin where
  | built | parsed
  deriving DecidableEq, Repr

/-- An entry of the node arena (R15). -/
structure Node where
  leaf : Bool
  sym : Sym
  weight : Weight
  left : Idx
  right : Idx
  deriving DecidableEq, Repr

/-- An entry of the queue (R18). -/
structure QEntry where
  weight : Weight
  seq : Seq10
  idx : Idx
  deriving DecidableEq, Repr

/-- An entry of the explicit stack, 11 bits: a node and whether its left subtree is done (R22, R123). -/
structure StkEntry where
  idx : Idx
  leftDone : Bool
  deriving DecidableEq, Repr

/-- The operation-local registers (R22). `stk` holds the live entries, top first; `sp` is their number. -/
structure Work where
  w : BitVec 32
  eos : Bool
  m : BitVec 9
  a : QEntry
  b : QEntry
  pathBits : CodeBits
  pathLen : Len
  stk : List StkEntry
  /-- The register `macro`: 0 no macro command, 1 `COMPRESS`, 2 `DECOMPRESS` (assumption 4). -/
  macroCmd : BitVec 2
  deriving DecidableEq, Repr

/-- The source (R41). `answers` is how many more transactions its collaborator completes before it stalls for ever;
`none` says that it never stalls (R201, U12; assumption 11). -/
structure Source where
  bits : List Bool
  pos : Nat
  answers : Option Nat
  deriving DecidableEq, Repr

/-- The sink (R44); `answers` as for the source. -/
structure Sink where
  bits : List Bool
  closed : Bool
  answers : Option Nat
  deriving DecidableEq, Repr

/-- A completed stream transaction (R53, R58): a read of `n` bits with its value, or `none` for end of stream; a rewind;
a write of the low `n` bits of a value; a close. -/
inductive Tx where
  | srcRead (n : Nat) (v : Option (BitVec 32))
  | srcReset
  | sinkWrite (n : Nat) (v : BitVec 32)
  | sinkClose
  deriving DecidableEq, Repr

/-- What the host does next (spec/30_encoding.md R60, R73; spec/70_reset_and_hazards.md R190, R193, R198). -/
inductive HostAction where
  /-- A write transaction of the register port (R60). -/
  | write (addr : BitVec 5) (data : Reg)
  /-- A read transaction of the register port (R60). -/
  | read (addr : BitVec 5)
  /-- `rst` asserted and released (R190). -/
  | reset
  /-- The host opens, reopens or positions a source (R178, R193, R195). -/
  | openSource (bits : List Bool) (pos : Nat) (answers : Option Nat)
  /-- The host gives the CORE a sink (R193, R198). -/
  | openSink (bits : List Bool) (closed : Bool) (answers : Option Nat)
  deriving DecidableEq, Repr

/-- The state of the machine and of its environment. -/
structure State where
  /-- Configuration (00_scope.md R5); no step changes it. -/
  cfg : Config
  phase : Phase
  /-- `none` is code 0, no error since reset or CLEAR (R12). -/
  errCode : Option ErrKind
  busy : Bool
  done : Bool
  freqValid : Bool
  treeValid : Bool
  treeOrigin : Origin
  codesValid : Bool
  /-- `freq[0..255]`; `freq[256]` has no storage (R14). -/
  freq : Vector Count 256
  /-- The node arena: the places a 10-bit index names; `Alloc` uses those below `NODE_CAP` (R15, R16; assumption 20). -/
  node : Vector Node 1024
  nodeCount : Idx
  root : Idx
  /-- The queue, kept in the order of R94, so that equal queues are equal data (R18). -/
  pq : List QEntry
  codeLen : Vector Len 257
  codeBits : Vector CodeBits 257
  cursor : Idx
  sel : BitVec 10
  work : Work
  src : Source
  snk : Sink
  /-- The model's own: the stream transactions completed so far, in issue order (assumption 17). -/
  trace : List Tx
  /-- The host actions still to come, in order (assumption 13). -/
  pending : List HostAction
  /-- The value of the last read transaction of the register port (assumption 16). -/
  rdata : Reg
  /-- The model's own: the number of the next draw of free values (assumption 5). -/
  freeCount : Nat
  deriving DecidableEq, Repr

/-- What stops the machine for good. Neither arises in a state that a run from reset reaches. -/
inductive Fault where
  /-- Raised by GENCODES and WRHDR when a tree walk goes on beyond the largest tree the arena can hold, which happens only
  if the arena holds no tree though `tree_valid` is 1; also the answer of the loops of ANALYZE, RDHDR, ENCBODY and DECBODY
  when they run beyond their bounds, which never happens. Safe: the hardware would go on (assumption 19). -/
  | runaway
  /-- Raised by BUILD if its queue holds no entry, which never happens: `freq[256]` is 1 (R92). Safe (assumption 19). -/
  | queueEmpty
  deriving DecidableEq, Repr

/-- What has no meaning in the model. -/
inductive Refusal where
  /-- Raised by `exec` for an instruction that has no meaning yet. Safe. -/
  | notModelled (mnemonic : String)
  /-- Raised by a command that writes or closes a sink that is already closed: outside the collaborator contract, the spec asks
  for a refusal (R44, R198, U6). Safe (assumption 10). -/
  | sinkClosed
  /-- Raised by a stream token given to the CORE in a phase that handles no such token: no rule gives it an effect there.
  No step runs a token in such a phase. Safe (assumption 9). -/
  | tokenOutsidePhase
  /-- Raised by a host action that replaces a stream while a command runs, against R41 and R196. Safe (assumption 14). -/
  | streamReplacedWhileBusy
  deriving DecidableEq, Repr

/-! ## Reset -/

/-- A table whose entry `i` is `f i`. -/
def table {α : Type} (n : Nat) (f : Nat → α) : Vector α n := ⟨⟨(List.range n).map f⟩, by simp⟩

/-- The unspecified contents of an arena entry in draw `k` (U1). -/
def freeNode (k i : Nat) : Node :=
  { leaf := (Config.free 1 (.nodeLeaf i) k).getLsbD 0, sym := Config.free 9 (.nodeSym i) k,
    weight := Config.free 40 (.nodeWeight i) k, left := Config.free 10 (.nodeLeft i) k,
    right := Config.free 10 (.nodeRight i) k }

/-- The unspecified contents of a queue-entry register in draw `k` (U13). -/
def freeEntry (k which : Nat) : QEntry :=
  { weight := Config.free 40 (.workEntry which 0) k, seq := Config.free 10 (.workEntry which 1) k,
    idx := Config.free 10 (.workEntry which 2) k }

/-- The unspecified contents of the operation-local registers in draw `k` (R24, U13). DESIGN CHOICE: no stack entry is live
(assumption 4). -/
def freeWork (k : Nat) : Work :=
  { w := Config.free 32 .workW k, eos := (Config.free 1 .workEos k).getLsbD 0, m := Config.free 9 .workM k,
    a := freeEntry k 0, b := freeEntry k 1, pathBits := Config.free 256 .workPathBits k,
    pathLen := Config.free 9 .workPathLen k, stk := [], macroCmd := Config.free 2 .workMacro k }

/-- The state right after reset (R24, R190). The tables and the operation-local registers are unspecified: free values
(assumptions 3, 4). The streams are the environment's: an empty source and an empty open sink (assumption 15). -/
def State.reset : State :=
  { cfg := Config.standard
    phase := .idle
    errCode := none
    busy := false
    done := false
    freqValid := false
    treeValid := false
    treeOrigin := .built
    codesValid := false
    freq := table 256 fun s => Config.free 32 (.freq s) 0
    node := table 1024 fun i => freeNode 0 i
    nodeCount := 0#10
    root := 0#10
    pq := []
    codeLen := table 257 fun s => Config.free 9 (.codeLen s) 0
    codeBits := table 257 fun s => Config.free 256 (.codeBits s) 0
    cursor := 0#10
    sel := 0#10
    work := freeWork 0
    src := { bits := [], pos := 0, answers := none }
    snk := { bits := [], closed := false, answers := none }
    trace := []
    pending := []
    rdata := 0#64
    freeCount := 1 }

end Sys2Proof.Machine
end

