-- ==== Sys2Proof/Machine/Operands.lean ====
section
/-!
DEFINITION. Where commands take their operands from: the tables, each read and written through one accessor
(spec/10_state.md R14, R15, R19, R22). A command word itself has no operand (spec/30_encoding.md R62).
-/
namespace Sys2Proof.Machine

/-- `freq[s]`: a stored counter for a byte value, the hardwired 1 for symbol 256 (R14). -/
def State.freqAt (s : State) (sym : Nat) : Count := s.freq[sym]?.getD 1#32

/-- All 257 counts in ascending symbol order, the hardwired one last (R14). -/
def State.counts (s : State) : List Count := s.freq.toList ++ [1#32]

/-- `freq[x] <- v` for a byte value (R14). -/
def State.setFreq (s : State) (x : BitVec 8) (v : Count) : State := { s with freq := s.freq.set x.toNat v }

/-- `node[i]` (R15). -/
def State.nodeAt (s : State) (i : Idx) : Node := s.node[i.toNat]

/-- `node[i] <- n` (R15). -/
def State.setNode (s : State) (i : Idx) (n : Node) : State := { s with node := s.node.set i.toNat n }

/-- `code_len[s]` (R19), for the 257 symbols. -/
def State.codeLenAt (s : State) (sym : Nat) : Len := s.codeLen[sym]?.getD 0#9

/-- `code_bits[s]` (R19), for the 257 symbols. -/
def State.codeBitsAt (s : State) (sym : Nat) : CodeBits := s.codeBits[sym]?.getD 0#256

/-- The code of a symbol as a bit string in stream order: the low `code_len[s]` bits of `code_bits[s]`, the first branch
first (R19). -/
def State.codeOf (s : State) (sym : Nat) : List Bool := msbBits (s.codeLenAt sym).toNat (s.codeBitsAt sym)

/-- `code_len[s] <- len; code_bits[s] <- bits` (R107). The tables have the 257 entries of R19 and no place for 257 to 511,
symbols that no `BUILT` tree holds (R17; assumption 21). -/
def State.setCode (s : State) (sym : Sym) (len : Len) (bits : CodeBits) : State :=
  { s with codeLen := s.codeLen.setIfInBounds sym.toNat len, codeBits := s.codeBits.setIfInBounds sym.toNat bits }

/-- `sp`: the number of live stack entries (R22). -/
def Work.sp (w : Work) : BitVec 10 := BitVec.ofNat 10 w.stk.length

/-- The header token of an arena node (R69, R115). -/
def tokenOf (n : Node) : Instr := if n.leaf then .hdrLeaf n.sym else .hdrNode

end Sys2Proof.Machine
end

