-- ==== Sys2Proof/Machine/Flags.lean ====
section
/-!
DEFINITION. The status flags and codes (spec/10_state.md R11 to R13, spec/30_encoding.md R65, spec/60_exceptions.md R171): the
CORE has no arithmetic condition codes, so these are all its flags.
-/
namespace Sys2Proof.Machine

/-- The 4-bit code of a phase (R11). -/
def Phase.code (p : Phase) : BitVec 4 :=
  match p with
  | .idle => 0
  | .analyze => 1
  | .build => 2
  | .gencodes => 3
  | .wrmagic => 4
  | .wrhdr => 5
  | .encbody => 6
  | .close => 7
  | .rdmagic => 8
  | .rdhdr => 9
  | .decbody => 10
  | .error => 15

/-- The 4-bit code of an error kind (R171). -/
def ErrKind.code (k : ErrKind) : BitVec 4 :=
  match k with
  | .badMagic => 1
  | .truncatedHeader => 2
  | .truncatedBody => 3
  | .countOverflow => 4
  | .noCode => 5
  | .treeOverflow => 6
  | .badTree => 7
  | .illegalCmd => 8
  | .sequence => 9

/-- The register `err_code`: 0 when there was no error (R12, R171). -/
def State.errCodeBits (s : State) : BitVec 4 :=
  match s.errCode with
  | none => 0
  | some k => k.code

/-- The flag `err`: `err_code != 0` (R13). -/
def State.err (s : State) : Bool := s.errCode.isSome

/-- The 1-bit code of an origin (R13). -/
def Origin.bit (o : Origin) : Bool :=
  match o with
  | .built => false
  | .parsed => true

/-- The register `STATUS` (R65). Bit 5 shows the origin only while a tree is valid (C11). -/
def State.statusWord (s : State) : Reg :=
  (BitVec.ofBool s.busy).setWidth 64
    ||| ((BitVec.ofBool s.done).setWidth 64 <<< 1)
    ||| ((BitVec.ofBool s.err).setWidth 64 <<< 2)
    ||| ((BitVec.ofBool s.freqValid).setWidth 64 <<< 3)
    ||| ((BitVec.ofBool s.treeValid).setWidth 64 <<< 4)
    ||| ((BitVec.ofBool (s.treeOrigin.bit && s.treeValid)).setWidth 64 <<< 5)
    ||| ((BitVec.ofBool s.codesValid).setWidth 64 <<< 6)
    ||| (s.phase.code.setWidth 64 <<< 8)

/-- The end of a command without error: `done <- 1; phase <- IDLE` and `busy <- 0` (R153 case (f) and the last line of
every command's rule). -/
def State.complete (s : State) : State := { s with done := true, phase := .idle, busy := false }

end Sys2Proof.Machine
end

