-- ==== Sys2Proof/Machine/Ops.lean ====
section
/-!
DEFINITION. The shared operations: how a command ends, error entry and the return from it (spec/60_exceptions.md R176, R178), the
four stream primitives (spec/20_memory.md R42 to R45), `Alloc` (spec/10_state.md R16), the queue (R18) and the acceptance of a
command word (spec/47_sequencer_commands.md R153).
-/
namespace Sys2Proof.Machine

/-! ## How a command goes on or ends -/

/-- Why a command ends before its last line. -/
inductive Stop where
  /-- `raise Err(K)` (R176). -/
  | raise (k : ErrKind)
  /-- A collaborator never completes the next transaction (R201, U12). -/
  | stall
  | fault (f : Fault)
  | refuse (r : Refusal)
  deriving DecidableEq, Repr

/-- The result of a part of a command: it goes on with a value, or it has stopped; either way the state so far. -/
inductive Res (α : Type) where
  | ok (a : α) (s : State)
  | stop (r : Stop) (s : State)
  deriving Repr

/-- Go on with `f` where `r` did not stop. -/
def Res.bind {α β : Type} (r : Res α) (f : α → State → Res β) : Res β :=
  match r with
  | .ok a s => f a s
  | .stop r s => .stop r s

/-- Go on with `f`, no value passed. -/
def Res.seq (r : Res Unit) (f : State → Res Unit) : Res Unit := r.bind fun _ s => f s

/-! ## Error entry and return -/

/-- Error entry, `raise Err(K)` (R176): the code, phase `ERROR`, `busy`, `done` and the three valid flags cleared. Nothing
else is saved or changed and no stream transaction is issued. -/
def raiseErr (k : ErrKind) (s : State) : State :=
  { s with errCode := some k, phase := .error, busy := false, done := false,
           freqValid := false, treeValid := false, codesValid := false }

/-- The return from an error, and reset: the CORE state of R24, the streams, the host port and the configuration untouched
(R150, R178, R190, R191). The tables and the operation-local registers are unspecified afterwards: a fresh draw of free
values (U1, U13; assumptions 3, 4). -/
def coreReset (s : State) : State :=
  { s with
    phase := .idle
    errCode := none
    busy := false
    done := false
    freqValid := false
    treeValid := false
    treeOrigin := .built
    codesValid := false
    freq := table 256 fun x => Config.free 32 (.freq x) s.freeCount
    node := table 1024 fun i => freeNode s.freeCount i
    nodeCount := 0#10
    root := 0#10
    pq := []
    codeLen := table 257 fun x => Config.free 9 (.codeLen x) s.freeCount
    codeBits := table 257 fun x => Config.free 256 (.codeBits x) s.freeCount
    cursor := 0#10
    sel := 0#10
    work := freeWork s.freeCount
    freeCount := s.freeCount + 1 }

/-- A command's result as an outcome of the machine: an error is entered, a stall leaves the state as it stands, `busy`. -/
def settle (r : Res Unit) : Host.Outcome State Fault Refusal :=
  match r with
  | .ok _ s => .next s
  | .stop (.raise k) s => .next (raiseErr k s)
  | .stop .stall s => .next s
  | .stop (.fault f) _ => .fault f
  | .stop (.refuse q) _ => .refused q

/-! ## The stream primitives -/

/-- Does a collaborator with this many answers left complete the next transaction? -/
def answering (answers : Option Nat) : Bool := decide (answers ≠ some 0)

/-- One answer fewer. -/
def afterAnswer (answers : Option Nat) : Option Nat := answers.map (· - 1)

/-- The next `n` bits of a source as a number, or `none` where fewer are left (R42). -/
def Source.peek (src : Source) (n : Nat) : Option Nat :=
  if src.pos + n ≤ src.bits.length then some (ofMsbBits 0 ((src.bits.drop src.pos).take n)) else none

/-- The bits of a source that are still to be read (R41). -/
def Source.rest (src : Source) : List Bool := src.bits.drop src.pos

/-- `SrcRead(n)` (R42): all or nothing; a read that cannot be satisfied reports end of stream and leaves the source
exhausted. The answer is `none` at end of stream; the register `w` then holds a free value (U2; assumption 6). -/
def srcRead (n : Nat) (s : State) : Res (Option (BitVec 32)) :=
  if answering s.src.answers then
    match s.src.peek n with
    | some v =>
      .ok (some (BitVec.ofNat 32 v))
        { s with src := { s.src with pos := s.src.pos + n, answers := afterAnswer s.src.answers }
                 work := { s.work with w := BitVec.ofNat 32 v, eos := false }
                 trace := s.trace ++ [.srcRead n (some (BitVec.ofNat 32 v))] }
    | none =>
      .ok none
        { s with src := { s.src with pos := s.src.bits.length, answers := afterAnswer s.src.answers }
                 work := { s.work with w := Config.free 32 .srcData s.freeCount, eos := true }
                 trace := s.trace ++ [.srcRead n none]
                 freeCount := s.freeCount + 1 }
  else .stop .stall s

/-- `SrcReset()` (R43). -/
def srcReset (s : State) : Res Unit :=
  if answering s.src.answers then
    .ok () { s with src := { s.src with pos := 0, answers := afterAnswer s.src.answers }, trace := s.trace ++ [.srcReset] }
  else .stop .stall s

/-- `SinkWrite(n, v)` (R44): the low `n` bits of `v`, bit `n − 1` first. Refused on a closed sink (U6; assumption 10). -/
def sinkWrite (n : Nat) (v : BitVec 32) (s : State) : Res Unit :=
  if s.snk.closed then .stop (.refuse .sinkClosed) s
  else if answering s.snk.answers then
    .ok () { s with snk := { s.snk with bits := s.snk.bits ++ msbBits n v, answers := afterAnswer s.snk.answers }
                    trace := s.trace ++ [.sinkWrite n v] }
  else .stop .stall s

/-- The padding that fills the last byte (R45). -/
def padding (padBit : Bool) (len : Nat) : List Bool := List.replicate ((8 - len % 8) % 8) padBit

/-- `SinkClose()` (R45). Refused on a closed sink (U6; assumption 10). -/
def sinkClose (s : State) : Res Unit :=
  if s.snk.closed then .stop (.refuse .sinkClosed) s
  else if answering s.snk.answers then
    .ok () { s with snk := { s.snk with bits := s.snk.bits ++ padding s.cfg.padBit s.snk.bits.length
                                        closed := true, answers := afterAnswer s.snk.answers }
                    trace := s.trace ++ [.sinkClose] }
  else .stop .stall s

/-- The form of the two streams: the read position is within the source (R41). This hardware has no addressable memory
(R40); the streams are what its commands load from and store to. -/
def Memory.wf (s : State) : Bool := decide (s.src.pos ≤ s.src.bits.length)

/-- The whole bytes that a bit string holds, first bit most significant (R41, R46). A last partial byte, which a collaborator
may still hold in its buffer (R45, U8), is left out. -/
def bytesOf : List Bool → List (BitVec 8)
  | b7 :: b6 :: b5 :: b4 :: b3 :: b2 :: b1 :: b0 :: rest =>
    BitVec.ofNat 8 (ofMsbBits 0 [b7, b6, b5, b4, b3, b2, b1, b0]) :: bytesOf rest
  | _ => []

/-- The bits of a file of bytes (R41). -/
def bitsOfBytes (bytes : List (BitVec 8)) : List Bool := bytes.flatMap (msbBits 8)

/-! ## The arena -/

/-- `Alloc` (R16): the next entry, or `TreeOverflow` when `NODE_CAP` entries are in use. -/
def alloc (n : Node) (s : State) : Res Idx :=
  if s.nodeCount.toNat = s.cfg.nodeCap then .stop (.raise .treeOverflow) s
  else .ok s.nodeCount { s.setNode s.nodeCount n with nodeCount := s.nodeCount + 1#10 }

/-- A leaf node (R15). -/
def leafNode (sym : Sym) (weight : Weight) : Node :=
  { leaf := true, sym := sym, weight := weight, left := 0#10, right := 0#10 }

/-- An internal node (R15). -/
def internalNode (weight : Weight) (left right : Idx) : Node :=
  { leaf := false, sym := 0#9, weight := weight, left := left, right := right }

/-! ## The queue -/

/-- The tie-break, one definition (R94, D3): entry `x` is before `y` by the 50-bit key `weight ‖ seq`. -/
def QEntry.before (x y : QEntry) : Bool :=
  decide (x.weight.toNat < y.weight.toNat) || (decide (x.weight = y.weight) && decide (x.seq.toNat < y.seq.toNat))

/-- `Insert` (R18): the entry's place in the order of R94. -/
def insertEntry (e : QEntry) : List QEntry → List QEntry
  | [] => [e]
  | x :: xs => if e.before x then e :: x :: xs else x :: insertEntry e xs

/-- `RemoveMin` (R18): the least entry; a queue without one has none to give. -/
def removeMin (s : State) : Res QEntry :=
  match s.pq with
  | [] => .stop (.fault .queueEmpty) s
  | e :: rest => .ok e { s with pq := rest }

/-! ## Acceptance -/

/-- The code of no macro command in the register `macro` (R22). -/
abbrev noMacro : BitVec 2 := 0#2
/-- The code of `COMPRESS` in the register `macro` (R22). -/
abbrev compressMacro : BitVec 2 := 1#2
/-- The code of `DECOMPRESS` in the register `macro` (R22). -/
abbrev decompressMacro : BitVec 2 := 2#2

/-- The start of an accepted command: `done <- 0`, `busy <- 1` (R153), and which macro command runs (R22). -/
def State.start (s : State) (macroCode : BitVec 2) : State :=
  { s with done := false, busy := true, work := { s.work with macroCmd := macroCode } }

/-- Acceptance of a legal command word other than CLEAR (R153): ignored while busy (a) and in `ERROR` (c); `Sequence` when
the prerequisite does not hold (e); else the command runs (f). -/
def accept (prerequisite : State → Bool) (macroCode : BitVec 2) (body : State → Res Unit) (s : State) :
    Host.Outcome State Fault Refusal :=
  if s.busy then .next s
  else if s.phase = .error then .next s
  else if prerequisite s then settle ((body (s.start macroCode)).seq fun t => .ok () t.complete)
  else .next (raiseErr .sequence s)

/-- Acceptance of an illegal command word (R64, R153): ignored while busy (a) and in `ERROR` (c), else `IllegalCmd` (d). -/
def acceptIllegal (s : State) : Host.Outcome State Fault Refusal :=
  if s.busy then .next s
  else if s.phase = .error then .next s
  else .next (raiseErr .illegalCmd s)

/-- A command without a prerequisite flag (R154). -/
def noPrerequisite (_ : State) : Bool := true

end Sys2Proof.Machine
end

