-- ==== Sys2Proof/Machine/Analyzer.lean ====
section
/-!
DEFINITION. The frequency analyzer: ANALYZE (spec/40_frequency_analyzer.md R80 to R85).
-/
namespace Sys2Proof.Machine

/-- Count one word: `CountOverflow` where its counter holds `CMAX`, else the counter plus one (R83, R84). -/
def countWord (x : BitVec 8) (s : State) : Res Unit :=
  if (s.freqAt x.toNat).toNat = s.cfg.cmax then .stop (.raise .countOverflow) s
  else .ok () (s.setFreq x (s.freqAt x.toNat + 1#32))

/-- The scan (R83): read and count 8-bit words until the end of stream. Each pass consumes bits, so a bound above the
number of bits is never reached. -/
def analyzeLoop (bound : Nat) (s : State) : Res Unit :=
  match bound with
  | 0 => .stop (.fault .runaway) s
  | bound + 1 =>
    (srcRead 8 s).bind fun v s =>
      match v with
      | none => .ok () s
      | some w => (countWord (w.setWidth 8) s).seq (analyzeLoop bound)

/-- The start of ANALYZE (R83): the phase, the flags, every counter 0 (R81). -/
def analyzeStart (s : State) : State :=
  { s with phase := .analyze, freqValid := false, treeValid := false, codesValid := false,
           freq := Vector.replicate 256 0#32 }

/-- The body of ANALYZE (R83). -/
def analyzeBody (s : State) : Res Unit :=
  ((analyzeLoop (s.src.bits.length + 1) (analyzeStart s)).seq srcReset).seq fun s => .ok () { s with freqValid := true }

/-- `ANALYZE` (R83). -/
def execAnalyze (s : State) : Host.Outcome State Fault Refusal := accept noPrerequisite noMacro analyzeBody s

end Sys2Proof.Machine
end

