-- ==== Sys2Proof/Machine/HeaderWriter.lean ====
section
/-!
DEFINITION. The header encoder: WRHDR (spec/43_header_encoder.md R113 to R118), one token at a time. The stack holds the
subtrees still to be written, the next one on top (R22, R114; assumption 27).
-/
namespace Sys2Proof.Machine

/-- The stack of R22 replaced. -/
def State.setStk (s : State) (stk : List StkEntry) : State := { s with work := { s.work with stk := stk } }

/-- A subtree still to be written. -/
def pendingSubtree (i : Idx) : StkEntry := { idx := i, leftDone := false }

/-- Write the token `HDR.NODE` for the internal node on top of the stack; its left subtree comes next, then its right one
(R114, R115). -/
def writeNodeToken (s : State) : Res Unit :=
  match s.work.stk with
  | [] => .stop (.refuse .tokenOutsidePhase) s
  | e :: rest =>
    (sinkWrite 1 0#32 s).seq fun s =>
      .ok () (s.setStk (pendingSubtree (s.nodeAt e.idx).left :: pendingSubtree (s.nodeAt e.idx).right :: rest))

/-- Write the token `HDR.LEAF` with a symbol for the leaf on top of the stack (R115). -/
def writeLeafToken (sym : Sym) (s : State) : Res Unit :=
  match s.work.stk with
  | [] => .stop (.refuse .tokenOutsidePhase) s
  | _ :: rest =>
    (sinkWrite 1 1#32 s).seq fun s =>
      (sinkWrite 9 (sym.setWidth 32) s).seq fun s => .ok () (s.setStk rest)

/-- Write the token of a node (R115). -/
def writeToken (n : Node) (s : State) : Res Unit := if n.leaf then writeLeafToken n.sym s else writeNodeToken s

/-- `Ser` (R115): write tokens until no subtree is left. A tree in the arena has fewer nodes than the bound. -/
def writeTokens (bound : Nat) (s : State) : Res Unit :=
  match bound with
  | 0 => .stop (.fault .runaway) s
  | bound + 1 =>
    match s.work.stk with
    | [] => .ok () s
    | e :: _ => (writeToken (s.nodeAt e.idx) s).seq (writeTokens bound)

/-- The start of WRHDR (R115): the whole tree is still to be written. -/
def wrhdrStart (s : State) : State := { s.setStk [pendingSubtree s.root] with phase := .wrhdr }

/-- The body of WRHDR (R115). -/
def wrhdrBody (s : State) : Res Unit := writeTokens arenaSize (wrhdrStart s)

/-- The prerequisite of WRHDR and of DECBODY: a valid tree of either origin (R154). -/
def treeReady (s : State) : Bool := s.treeValid

/-- `WRHDR` (R115). -/
def execWrhdr (s : State) : Host.Outcome State Fault Refusal := accept treeReady noMacro wrhdrBody s

end Sys2Proof.Machine
end

