-- ==== Sys2Proof/Machine/Body.lean ====
section
/-!
DEFINITION. The body encoder and decoder: ENCBODY (spec/45_body_encoder.md R130 to R135) and DECBODY
(spec/46_body_decoder.md R138 to R145).
-/
namespace Sys2Proof.Machine

/-! ## ENCBODY -/

/-- Write the bits of a code, one bit a transaction (R131). -/
def emitBits (bits : List Bool) (s : State) : Res Unit :=
  match bits with
  | [] => .ok () s
  | b :: bs => (sinkWrite 1 ((BitVec.ofBool b).setWidth 32) s).seq (emitBits bs)

/-- `EmitCode(s)` (R131): the first branch from the root first. -/
def emitCode (sym : Nat) (s : State) : Res Unit := emitBits (s.codeOf sym) s

/-- The code of one word, or `NoCode` before anything is written for it (R133, R134). -/
def encodeWord (x : BitVec 8) (s : State) : Res Unit :=
  if s.codeLenAt x.toNat = 0#9 then .stop (.raise .noCode) s else emitCode x.toNat s

/-- The loop of ENCBODY (R133): each pass consumes bits, so a bound above the number of bits is never reached. -/
def encodeLoop (bound : Nat) (s : State) : Res Unit :=
  match bound with
  | 0 => .stop (.fault .runaway) s
  | bound + 1 =>
    (srcRead 8 s).bind fun v s =>
      match v with
      | none => .ok () s
      | some w => (encodeWord (w.setWidth 8) s).seq (encodeLoop bound)

/-- The body of ENCBODY (R133): the words' codes, the terminator once (R132), then the tables are discarded. -/
def encbodyBody (s : State) : Res Unit :=
  ((encodeLoop (s.src.bits.length + 1) { s with phase := .encbody }).seq (emitCode 256)).seq
    fun s => .ok () { s with codesValid := false, treeValid := false }

/-- The prerequisite of ENCBODY (R154). -/
def encbodyReady (s : State) : Bool := s.codesValid

/-- `ENCBODY` (R133). -/
def execEncbody (s : State) : Host.Outcome State Fault Refusal := accept encbodyReady noMacro encbodyBody s

/-! ## DECBODY -/

/-- The cursor's move for one body bit: 0 to the left child, 1 to the right child (R140). -/
def moveCursor (bit : Bool) (s : State) : State :=
  { s with cursor := if bit then (s.nodeAt s.cursor).right else (s.nodeAt s.cursor).left }

/-- A decoded leaf that is not the end-of-stream leaf: its low 8 bits are written and the cursor returns to the root
(R140, R142). -/
def writeDecoded (s : State) : Res Unit :=
  (sinkWrite 8 ((s.nodeAt s.cursor).sym.setWidth 32) s).seq fun s => .ok () { s with cursor := s.root }

/-- The loop of DECBODY (R140): each pass consumes one bit, so a bound above the number of bits is never reached (R141). -/
def decodeLoop (bound : Nat) (s : State) : Res Unit :=
  match bound with
  | 0 => .stop (.fault .runaway) s
  | bound + 1 =>
    (srcRead 1 s).bind fun v s =>
      match v with
      | none => .stop (.raise .truncatedBody) s
      | some b =>
        let s := moveCursor (b.getLsbD 0) s
        if (s.nodeAt s.cursor).leaf then
          if (s.nodeAt s.cursor).sym = eosSym then .ok () s
          else (writeDecoded s).seq (decodeLoop bound)
        else decodeLoop bound s

/-- The body of DECBODY (R140): the tree is discarded at the end. -/
def decbodyBody (s : State) : Res Unit :=
  (decodeLoop (s.src.bits.length + 1) { s with phase := .decbody, cursor := s.root }).seq
    fun s => .ok () { s with treeValid := false, codesValid := false }

/-- `DECBODY` (R140). -/
def execDecbody (s : State) : Host.Outcome State Fault Refusal := accept treeReady noMacro decbodyBody s

end Sys2Proof.Machine
end

