-- ==== Sys2Proof/Machine/Builder.lean ====
section
/-!
DEFINITION. The tree builder: BUILD (spec/41_tree_builder.md R90 to R103).
-/
namespace Sys2Proof.Machine

/-- One symbol of the leaf loader (R93): a leaf and its queue entry for a positive count. -/
def loadLeaf (sym : Nat) (count : Count) (s : State) : Res Unit :=
  if count = 0#32 then .ok () s
  else
    (alloc (leafNode (BitVec.ofNat 9 sym) (count.setWidth 40)) s).bind fun i s =>
      .ok () { s with pq := insertEntry { weight := count.setWidth 40, seq := BitVec.ofNat 10 sym, idx := i } s.pq }

/-- The leaf loader: the symbols from `sym` on, in ascending order, with their counts (R93). -/
def loadLeaves (sym : Nat) (counts : List Count) (s : State) : Res Unit :=
  match counts with
  | [] => .ok () s
  | c :: cs => (loadLeaf sym c s).seq (loadLeaves (sym + 1) cs)

/-- One merge (R95, R96): the entry removed first is the left child; the parent's sequence number is `257 + m` (R94). -/
def mergeOnce (s : State) : Res Unit :=
  (removeMin s).bind fun a s =>
    (removeMin { s with work := { s.work with a := a } }).bind fun b s =>
      (alloc (internalNode (a.weight + b.weight) a.idx b.idx) { s with work := { s.work with b := b } }).bind fun r s =>
        .ok ()
          { s with
            pq := insertEntry
              { weight := a.weight + b.weight, seq := 257#10 + s.work.m.setWidth 10, idx := r } s.pq
            work := { s.work with m := s.work.m + 1#9 } }

/-- The merger: merge while the queue holds more than one entry (R95, R97). Each merge removes one entry, so a bound of the
queue's length is never reached. -/
def mergeLoop (bound : Nat) (s : State) : Res Unit :=
  match bound with
  | 0 => .ok () s
  | bound + 1 => if 1 < s.pq.length then (mergeOnce s).seq (mergeLoop bound) else .ok () s

/-- The degenerate case (R98): the real leaf left, the placeholder right, the wrapper is the root. -/
def degenerate (s : State) : Res Unit :=
  (removeMin s).bind fun a s =>
    (alloc (leafNode s.cfg.placeholderSym 0#40) { s with work := { s.work with a := a } }).bind fun p s =>
      (alloc (internalNode a.weight a.idx p) s).bind fun r s => .ok () { s with root := r }

/-- The ordinary case (R95 to R97): merge, then the last entry names the root. -/
def mergeAll (s : State) : Res Unit :=
  (mergeLoop s.pq.length s).seq fun s =>
    (removeMin s).bind fun a s => .ok () { s with root := a.idx, work := { s.work with a := a } }

/-- The start of BUILD (R92). -/
def buildStart (s : State) : State :=
  { s with phase := .build, treeValid := false, codesValid := false, nodeCount := 0#10, pq := [],
           work := { s.work with m := 0#9 } }

/-- The end of BUILD (R92). -/
def buildEnd (s : State) : State := { s with treeOrigin := .built, treeValid := true, freqValid := false }

/-- The body of BUILD (R92). -/
def buildBody (s : State) : Res Unit :=
  ((loadLeaves 0 s.counts (buildStart s)).seq fun s => if s.pq.length = 1 then degenerate s else mergeAll s).seq
    fun s => .ok () (buildEnd s)

/-- The prerequisite of BUILD (R154). -/
def buildReady (s : State) : Bool := s.freqValid

/-- `BUILD` (R92). -/
def execBuild (s : State) : Host.Outcome State Fault Refusal := accept buildReady noMacro buildBody s

end Sys2Proof.Machine
end

