-- ==== Sys2Proof/Machine/Codes.lean ====
section
/-!
DEFINITION. The code-table generator: GENCODES (spec/42_code_table_generator.md R105 to R112).
-/
namespace Sys2Proof.Machine

/-- The path register holds the path to the node being visited (R22). -/
def State.setPath (s : State) (len : Len) (bits : CodeBits) : State :=
  { s with work := { s.work with pathLen := len, pathBits := bits } }

/-- `Walk(i, len, bits)` (R107): left before right, 0 appended going left, 1 going right. The hardware's explicit stack is the
recursion here (R22). A walk deeper than the arena is large is no walk of a tree. -/
def walk (bound : Nat) (i : Idx) (len : Len) (bits : CodeBits) (s : State) : Res Unit :=
  match bound with
  | 0 => .stop (.fault .runaway) s
  | bound + 1 =>
    let s := s.setPath len bits
    if (s.nodeAt i).leaf then .ok () (s.setCode (s.nodeAt i).sym len bits)
    else
      (walk bound (s.nodeAt i).left (len + 1#9) (bits <<< 1) s).seq fun s =>
        walk bound (s.nodeAt i).right (len + 1#9) ((bits <<< 1) ||| 1#256) s

/-- The start of GENCODES (R107): no symbol has a code (R108). -/
def gencodesStart (s : State) : State :=
  { s with phase := .gencodes, codesValid := false, codeLen := Vector.replicate 257 0#9,
           codeBits := Vector.replicate 257 0#256 }

/-- The body of GENCODES (R107). -/
def gencodesBody (s : State) : Res Unit :=
  (walk arenaSize s.root 0#9 0#256 (gencodesStart s)).seq fun s => .ok () { s with codesValid := true }

/-- The prerequisite of GENCODES (R105, R154): a valid tree, and a `BUILT` one. -/
def gencodesReady (s : State) : Bool := s.treeValid && decide (s.treeOrigin = .built)

/-- `GENCODES` (R107). -/
def execGencodes (s : State) : Host.Outcome State Fault Refusal := accept gencodesReady noMacro gencodesBody s

end Sys2Proof.Machine
end

