-- ==== Sys2Proof/Machine/HeaderReader.lean ====
section
/-!
DEFINITION. The header decoder: RDHDR (spec/44_header_decoder.md R120 to R128), one token at a time. The stack holds, for each
internal node whose subtrees are not complete, its index and whether its left subtree is done (R22, R123).
-/
namespace Sys2Proof.Machine

/-- The subtree with top node `i` is complete: it becomes the left child of the innermost open node, or its right child,
and then that node is complete too (R123). -/
def attach (i : Idx) (stk : List StkEntry) (s : State) : State :=
  match stk with
  | [] => s.setStk []
  | e :: rest =>
    if e.leftDone then attach e.idx rest (s.setNode e.idx { s.nodeAt e.idx with right := i })
    else (s.setNode e.idx { s.nodeAt e.idx with left := i }).setStk ({ e with leftDone := true } :: rest)

/-- `Alloc` and descent for a flag bit 0 (R123, token `HDR.NODE`). -/
def openNode (s : State) : Res Unit :=
  (alloc (internalNode 0#40 0#10 0#10) s).bind fun i s =>
    .ok () (s.setStk ({ idx := i, leftDone := false } :: s.work.stk))

/-- `Alloc` for a flag bit 1 (R123, token `HDR.LEAF`); the symbol is read next. -/
def openLeaf (s : State) : Res Idx := alloc (leafNode 0#9 0#40) s

/-- The symbol of the leaf just allocated (R123), which completes a subtree. -/
def closeLeaf (i : Idx) (sym : Sym) (s : State) : State :=
  attach i s.work.stk (s.setNode i { s.nodeAt i with sym := sym })

/-- The rest of a leaf token after its flag bit: the node, then the 9-bit symbol (R123 to R125). -/
def readLeafRest (s : State) : Res Unit :=
  (openLeaf s).bind fun i s =>
    (srcRead 9 s).bind fun v s =>
      match v with
      | none => .stop (.raise .truncatedHeader) s
      | some w => .ok () (closeLeaf i (w.setWidth 9) s)

/-- Read one token (R123): the flag bit, the node, the symbol of a leaf. -/
def readToken (s : State) : Res Unit :=
  (srcRead 1 s).bind fun f s =>
    match f with
    | none => .stop (.raise .truncatedHeader) s
    | some v => if v.getLsbD 0 then readLeafRest s else openNode s

/-- `ReadNode` for the whole header: read tokens until every internal node has both subtrees. Each token takes an arena
entry, so a bound above `NODE_CAP` is never reached (R125). -/
def readTokens (bound : Nat) (s : State) : Res Unit :=
  match bound with
  | 0 => .stop (.fault .runaway) s
  | bound + 1 => (readToken s).seq fun s => if s.work.stk = [] then .ok () s else readTokens bound s

/-- The start of RDHDR (R122). -/
def rdhdrStart (s : State) : State :=
  { s.setStk [] with phase := .rdhdr, treeValid := false, codesValid := false, nodeCount := 0#10 }

/-- The end of RDHDR, when the tree is complete (R122, R127): the top node is the first one allocated. -/
def rdhdrEnd (s : State) : Res Unit :=
  if (s.nodeAt 0#10).leaf then .stop (.raise .badTree) s
  else .ok () { s with root := 0#10, treeOrigin := .parsed, treeValid := true }

/-- The body of RDHDR (R122). -/
def rdhdrBody (s : State) : Res Unit := (readTokens (s.cfg.nodeCap + 1) (rdhdrStart s)).seq rdhdrEnd

/-- `RDHDR` (R122). -/
def execRdhdr (s : State) : Host.Outcome State Fault Refusal := accept noPrerequisite noMacro rdhdrBody s

end Sys2Proof.Machine
end

