-- ==== Sys2Proof/Machine/Sequencer.lean ====
section
/-!
DEFINITION. The sequencer commands (spec/47_sequencer_commands.md R147 to R155): the magic, close and clear, the two macro
commands, and the illegal command words (spec/30_encoding.md R64).
-/
namespace Sys2Proof.Machine

/-! ## The magic -/

/-- The one transaction of WRMAGIC (R147). -/
def writeMagic (s : State) : Res Unit := sinkWrite 32 s.cfg.magic s

/-- The body of WRMAGIC (R147). -/
def wrmagicBody (s : State) : Res Unit := writeMagic { s with phase := .wrmagic }

/-- `WRMAGIC` (R147). -/
def execWrmagic (s : State) : Host.Outcome State Fault Refusal := accept noPrerequisite noMacro wrmagicBody s

/-- The read and the check of RDMAGIC (R148): end of stream and every other value are `BadMagic`. -/
def readMagic (s : State) : Res Unit :=
  (srcRead 32 s).bind fun v s =>
    match v with
    | none => .stop (.raise .badMagic) s
    | some w => if w = s.cfg.magic then .ok () s else .stop (.raise .badMagic) s

/-- The body of RDMAGIC (R148). -/
def rdmagicBody (s : State) : Res Unit := readMagic { s with phase := .rdmagic }

/-- `RDMAGIC` (R148). -/
def execRdmagic (s : State) : Host.Outcome State Fault Refusal := accept noPrerequisite noMacro rdmagicBody s

/-! ## Close and clear -/

/-- The body of CLOSE (R149). -/
def closeBody (s : State) : Res Unit := sinkClose { s with phase := .close }

/-- `CLOSE` (R149). -/
def execClose (s : State) : Host.Outcome State Fault Refusal := accept noPrerequisite noMacro closeBody s

/-- `CLEAR` (R150): accepted in `IDLE` and in `ERROR`, ignored while busy (R153). -/
def execClear (s : State) : Host.Outcome State Fault Refusal := if s.busy then .next s else .next (coreReset s)

/-! ## The macro commands -/

/-- What follows WRHDR in COMPRESS (R151). -/
def compressAfterHeader (s : State) : Res Unit := (encbodyBody s).seq closeBody

/-- What follows WRMAGIC in COMPRESS (R151). -/
def compressAfterMagic (s : State) : Res Unit := (wrhdrBody s).seq compressAfterHeader

/-- The seven steps of COMPRESS (R151); the first error ends them. -/
def compressBody (s : State) : Res Unit :=
  (((analyzeBody s).seq buildBody).seq gencodesBody).seq fun s => (wrmagicBody s).seq compressAfterMagic

/-- `COMPRESS` (R151). -/
def execCompress (s : State) : Host.Outcome State Fault Refusal := accept noPrerequisite compressMacro compressBody s

/-- What follows RDHDR in DECOMPRESS (R152). -/
def decompressAfterHeader (s : State) : Res Unit := (decbodyBody s).seq closeBody

/-- What follows RDMAGIC in DECOMPRESS (R152). -/
def decompressAfterMagic (s : State) : Res Unit := (rdhdrBody s).seq decompressAfterHeader

/-- The four steps of DECOMPRESS (R152); the first error ends them. -/
def decompressBody (s : State) : Res Unit := (rdmagicBody s).seq decompressAfterMagic

/-- `DECOMPRESS` (R152). -/
def execDecompress (s : State) : Host.Outcome State Fault Refusal :=
  accept noPrerequisite decompressMacro decompressBody s

/-! ## Illegal command words -/

/-- The illegal word 0x0 (R64). -/
def execIllegal0 (s : State) : Host.Outcome State Fault Refusal := acceptIllegal s

/-- The illegal word 0xE (R64). -/
def execIllegalE (s : State) : Host.Outcome State Fault Refusal := acceptIllegal s

/-- The illegal word 0xF (R64). -/
def execIllegalF (s : State) : Host.Outcome State Fault Refusal := acceptIllegal s

/-- A word with a nonzero bit in [63:4], whatever its op (R64). -/
def execIllegalDefault (_ : Reg) (s : State) : Host.Outcome State Fault Refusal := acceptIllegal s

end Sys2Proof.Machine
end

