-- ==== Sys2Proof/Machine/Tokens.lean ====
section
/-!
DEFINITION. The stream tokens as instructions (spec/30_encoding.md R69 to R71): what one token does inside the command that
handles it, RDHDR (R123) or WRHDR (R115) for a header token, RDMAGIC (R148) or WRMAGIC (R147) for the magic field. The commands
of HeaderReader, HeaderWriter and Sequencer are iterations of the same operations. Assumptions 8, 9.
-/
namespace Sys2Proof.Machine

/-! ## What follows the phase a token ends -/

/-- The end of the running command, or the rest of the macro command it belongs to (R151, R152, R153). -/
def endPhase (macroCode : BitVec 2) (rest : State → Res Unit) (s : State) : Res Unit :=
  if s.work.macroCmd = macroCode then (rest s).seq fun s => .ok () s.complete else .ok () s.complete

/-- After a token of RDHDR: the next token, or the end of the header (R122). -/
def afterReadToken (s : State) : Res Unit :=
  if s.work.stk = [] then (rdhdrEnd s).seq (endPhase decompressMacro decompressAfterHeader) else .ok () s

/-- After a token of WRHDR: the next token, or the end of the header (R115). -/
def afterWriteToken (s : State) : Res Unit :=
  if s.work.stk = [] then endPhase compressMacro compressAfterHeader s else .ok () s

/-! ## The token rows -/

/-- Take the token `HDR.NODE` from the source (R123). -/
def takeNode (s : State) : Res Unit :=
  (srcRead 1 s).bind fun f s =>
    match f with
    | none => .stop (.raise .truncatedHeader) s
    | some _ => openNode s

/-- Take the token `HDR.LEAF` with a symbol from the source (R123). -/
def takeLeaf (sym : Sym) (s : State) : Res Unit :=
  (srcRead 1 s).bind fun f s =>
    match f with
    | none => .stop (.raise .truncatedHeader) s
    | some _ =>
      (openLeaf s).bind fun i s =>
        (srcRead 9 s).bind fun v s =>
          match v with
          | none => .stop (.raise .truncatedHeader) s
          | some _ => .ok () (closeLeaf i sym s)

/-- `HDR.NODE` (R69): read in phase RDHDR (R123), written in phase WRHDR (R115). -/
def execHdrNode (s : State) : Host.Outcome State Fault Refusal :=
  match s.phase with
  | .rdhdr => settle ((takeNode s).seq afterReadToken)
  | .wrhdr => settle ((writeNodeToken s).seq afterWriteToken)
  | _ => .refused .tokenOutsidePhase

/-- `HDR.LEAF` (R69, R70): read in phase RDHDR (R123), written in phase WRHDR (R115). -/
def execHdrLeaf (sym : Sym) (s : State) : Host.Outcome State Fault Refusal :=
  match s.phase with
  | .rdhdr => settle ((takeLeaf sym s).seq afterReadToken)
  | .wrhdr => settle ((writeLeafToken sym s).seq afterWriteToken)
  | _ => .refused .tokenOutsidePhase

/-- `FILE.MAGIC` (R71): read and accepted in phase RDMAGIC (R148), written in phase WRMAGIC (R147). -/
def execFileMagic (s : State) : Host.Outcome State Fault Refusal :=
  match s.phase with
  | .rdmagic => settle ((readMagic s).seq (endPhase decompressMacro decompressAfterMagic))
  | .wrmagic => settle ((writeMagic s).seq (endPhase compressMacro compressAfterMagic))
  | _ => .refused .tokenOutsidePhase

end Sys2Proof.Machine
end

