-- ==== Sys2Proof/Machine/Dispatch.lean ====
section
/-! DEFINITION. The dispatch: one arm for each constructor of `Instr`. -/
namespace Sys2Proof.Machine

def exec (i : Instr) (s : State) : Host.Outcome State Fault Refusal :=
  match i with
  | .analyze => Sys2Proof.Machine.execAnalyze s
  | .build => Sys2Proof.Machine.execBuild s
  | .gencodes => Sys2Proof.Machine.execGencodes s
  | .wrmagic => Sys2Proof.Machine.execWrmagic s
  | .wrhdr => Sys2Proof.Machine.execWrhdr s
  | .encbody => Sys2Proof.Machine.execEncbody s
  | .close => Sys2Proof.Machine.execClose s
  | .rdmagic => Sys2Proof.Machine.execRdmagic s
  | .rdhdr => Sys2Proof.Machine.execRdhdr s
  | .decbody => Sys2Proof.Machine.execDecbody s
  | .compress => Sys2Proof.Machine.execCompress s
  | .decompress => Sys2Proof.Machine.execDecompress s
  | .clear => Sys2Proof.Machine.execClear s
  | .illegal0 => Sys2Proof.Machine.execIllegal0 s
  | .illegalE => Sys2Proof.Machine.execIllegalE s
  | .illegalF => Sys2Proof.Machine.execIllegalF s
  | .illegalDefault v => Sys2Proof.Machine.execIllegalDefault v s
  | .hdrNode => Sys2Proof.Machine.execHdrNode s
  | .hdrLeaf sym => Sys2Proof.Machine.execHdrLeaf sym s
  | .fileMagic => Sys2Proof.Machine.execFileMagic s

end Sys2Proof.Machine
end

