-- ==== Sys2Proof/Machine/HostPort.lean ====
section
/-!
DEFINITION. The host's actions other than commands: register reads and writes (spec/30_encoding.md R60, R61, R65 to R68,
spec/47_sequencer_commands.md R156), reset (spec/70_reset_and_hazards.md R190 to R192) and the streams it supplies (R193, R198).
-/
namespace Sys2Proof.Machine

/-- The address of `CMD` (R61). -/
abbrev cmdAddr : BitVec 5 := 0x00#5
/-- The address of `SEL` (R61). -/
abbrev selAddr : BitVec 5 := 0x04#5

/-- The register `TREE`'s fields (R61). -/
def State.treeWord (s : State) : Reg := (s.nodeCount ++ s.root).setWidth 64

/-- `NODE_INFO` of an entry (R61, R67). -/
def Node.infoWord (n : Node) : Reg := (n.right ++ n.left ++ n.sym ++ BitVec.ofBool n.leaf).setWidth 64

/-- May the selected entry of the arena be read (R67, R68)? -/
def State.nodeWindow (s : State) : Bool := !s.busy && s.treeValid && decide (s.sel.toNat < s.nodeCount.toNat)

/-- May the selected entry of the code table be read (R67, R68)? -/
def State.codeWindow (s : State) : Bool := !s.busy && s.codesValid && decide (s.sel.toNat ≤ 256)

/-- May the selected entry of the frequency table be read (R67, R68)? -/
def State.freqWindow (s : State) : Bool := !s.busy && s.freqValid && decide (s.sel.toNat ≤ 256)

/-- Bits [64j+63 : 64j] of the selected code (R67). -/
def State.codeQuarter (s : State) (j : Nat) : Reg := (s.codeBitsAt s.sel.toNat).extractLsb' (64 * j) 64

/-- Read a register: `some` value, or `none` where the read returns an unspecified value (R61, R65 to R68, U4, U10). -/
def regValue (addr : BitVec 5) (s : State) : Option Reg :=
  match addr.toNat with
  | 0x01 => some s.statusWord
  | 0x02 => some (s.errCodeBits.setWidth 64)
  | 0x03 => if !s.busy && s.treeValid then some s.treeWord else none
  | 0x04 => some (s.sel.setWidth 64)
  | 0x05 => if s.freqWindow then some ((s.freqAt s.sel.toNat).setWidth 64) else none
  | 0x06 => if s.nodeWindow then some (s.nodeAt s.sel).infoWord else none
  | 0x07 => if s.nodeWindow then some ((s.nodeAt s.sel).weight.setWidth 64) else none
  | 0x08 => if s.codeWindow then some ((s.codeLenAt s.sel.toNat).setWidth 64) else none
  | 0x09 => if s.codeWindow then some (s.codeQuarter 0) else none
  | 0x0A => if s.codeWindow then some (s.codeQuarter 1) else none
  | 0x0B => if s.codeWindow then some (s.codeQuarter 2) else none
  | 0x0C => if s.codeWindow then some (s.codeQuarter 3) else none
  | 0x0D => some (s.cfg.magic.setWidth 64)
  | _ => some 0#64

/-- The unspecified value of a read in draw `k`: of `TREE` only the two fields (R61, R68), of a window all 64 bits
(U4; assumption 7). -/
def freeRead (addr : BitVec 5) (k : Nat) : Reg :=
  if addr = 0x03#5 then (Config.free 20 (.window addr.toNat) k).setWidth 64 else Config.free 64 (.window addr.toNat) k

/-- A read transaction (R60, R156): no effect on the CORE. An unspecified value is a draw (U4). -/
def readReg (addr : BitVec 5) (s : State) : State :=
  match regValue addr s with
  | some v => { s with rdata := v }
  | none => { s with rdata := freeRead addr s.freeCount, freeCount := s.freeCount + 1 }

/-- A write transaction to a register other than `CMD` (R61, R156): `SEL` takes the low 10 bits, at any time; every other
register ignores it. -/
def writeReg (addr : BitVec 5) (data : Reg) (s : State) : State :=
  if addr = selAddr then { s with sel := data.setWidth 10 } else s

/-- What reset leaves of the environment (R191, R192, U5). Between commands the streams are untouched. Where a command runs, the
transaction in flight may or may not have taken effect, so the streams are free values afterwards: any read position, any
bits of one write behind what the sink held, and perhaps a close; a closed sink takes none. Assumption 12. -/
def abandon (s : State) : State :=
  if s.busy then
    { s with
      src := { s.src with
        pos := (Config.free s.src.bits.length .abandonedPos s.freeCount).toNat % (s.src.bits.length + 1) }
      snk :=
        if s.snk.closed then s.snk
        else
          { s.snk with
            bits := s.snk.bits ++ msbBits ((Config.free 6 .abandonedCount s.freeCount).toNat % 33)
              (Config.free 32 .abandonedBits s.freeCount)
            closed := (Config.free 1 .abandonedClose s.freeCount).getLsbD 0 } }
  else s

/-- A host action other than a write to `CMD`. A stream may not be replaced while a command runs (R41, R196; assumption 14);
a position beyond the end is the end (R41). -/
def hostAct (a : HostAction) (s : State) : Host.Outcome State Fault Refusal :=
  match a with
  | .write addr data => .next (writeReg addr data s)
  | .read addr => .next (readReg addr s)
  | .reset => .next (coreReset (abandon s))
  | .openSource bits pos answers =>
    if s.busy then .refused .streamReplacedWhileBusy
    else .next { s with src := { bits := bits, pos := min pos bits.length, answers := answers } }
  | .openSink bits closed answers =>
    if s.busy then .refused .streamReplacedWhileBusy
    else .next { s with snk := { bits := bits, closed := closed, answers := answers } }

end Sys2Proof.Machine
end

