-- ==== Sys2Proof/Machine/Fetch.lean ====
section
/-!
DEFINITION. What the machine does next. The CORE fetches no instructions (spec/00_scope.md R1): the host writes them to `CMD`
(R62), and inside a running RDHDR, WRHDR, RDMAGIC or WRMAGIC the next token stands on the source or in the arena (R69, R71).
-/
namespace Sys2Proof.Machine

/-- The next thing to do: an instruction, to be run in a state, or an outcome already at hand. -/
inductive Fetched where
  | run (i : Instr) (s : State)
  | done (o : Host.Outcome State Fault Refusal)

/-- The next token of a running command. A source that no token or no magic stands on ends in the error of R124 or R148. In the
other phases a command has no part-way form, so a busy CORE waits (R201; assumptions 8, 11). -/
def fetchToken (s : State) : Fetched :=
  match s.phase with
  | .rdmagic =>
    match decodeMagic s.cfg.magic s.src.rest with
    | .ok (i, _) => .run i s
    | .error _ => .done (settle (readMagic s))
  | .rdhdr =>
    match decodeToken s.src.rest with
    | .ok (i, _) => .run i s
    | .error _ => .done (settle (readToken s))
  | .wrmagic => .run .fileMagic s
  | .wrhdr =>
    match s.work.stk with
    | [] => .done (.next s)
    | e :: _ => .run (tokenOf (s.nodeAt e.idx)) s
  | .idle | .error | .analyze | .build | .gencodes | .encbody | .close | .decbody => .done (.next s)

/-- The next thing to do: the host's next action (R60, R73); without one, the next token of a running command; without
either, the CORE waits (R24, R185). Assumption 13. -/
def fetch (s : State) : Fetched :=
  match s.pending with
  | .write addr data :: rest =>
    if addr = cmdAddr then .run (decodeCmd data) { s with pending := rest }
    else .done (hostAct (.write addr data) { s with pending := rest })
  | .read addr :: rest => .done (hostAct (.read addr) { s with pending := rest })
  | .reset :: rest => .done (hostAct .reset { s with pending := rest })
  | .openSource bits pos answers :: rest => .done (hostAct (.openSource bits pos answers) { s with pending := rest })
  | .openSink bits closed answers :: rest => .done (hostAct (.openSink bits closed answers) { s with pending := rest })
  | [] => if s.busy then fetchToken s else .done (.next s)

/-- A source with some bits placed where the next read takes them from. -/
def Source.place (src : Source) (bits : List Bool) : Source :=
  { bits := src.bits.take src.pos ++ bits ++ src.bits.drop (src.pos + bits.length)
    pos := min src.pos src.bits.length
    answers := none }

/-- A state inside a command of its own (no macro command) that is about to read `bits`. -/
def State.awaiting (s : State) (phase : Phase) (bits : List Bool) : State :=
  { s with phase := phase, busy := true, pending := [], src := s.src.place bits,
           work := { s.work with macroCmd := noMacro } }

/-- An encoded instruction placed where the next step takes it from: a command word as the host's next write to `CMD`, a
header token before a running RDHDR, the magic field before a running RDMAGIC. -/
def placeCode (c : Code) (s : State) : State :=
  match c with
  | .cmd v => { s with pending := .write cmdAddr v :: s.pending }
  | .token bits => s.awaiting .rdhdr bits
  | .magicField bits => s.awaiting .rdmagic bits

end Sys2Proof.Machine
end

