-- ==== Sys2Proof/Machine/View.lean ====
section
/-!
DEFINITION. The trees and bit strings that the spec's rules speak of, as views of the state: `Tree(root)` (spec/10_state.md R17),
the header of a tree (spec/43_header_encoder.md R115), its codes (spec/42_code_table_generator.md R106), what a body decodes to
(spec/46_body_decoder.md R139, R140) and the file layout (spec/20_memory.md R50). No step uses them.
-/
namespace Sys2Proof.Machine

/-- The tree terms of R17. -/
inductive Tree where
  | leaf (sym : Sym)
  | internal (left right : Tree)
  deriving DecidableEq, Repr

/-- `Tree(i)` of R17, followed to a depth below `bound`; `none` where the arena holds no tree there. -/
def treeAt (bound : Nat) (s : State) (i : Idx) : Option Tree :=
  match bound with
  | 0 => none
  | bound + 1 =>
    if (s.nodeAt i).leaf then some (.leaf (s.nodeAt i).sym)
    else
      match treeAt bound s (s.nodeAt i).left, treeAt bound s (s.nodeAt i).right with
      | some l, some r => some (.internal l r)
      | _, _ => none

/-- The CORE's tree, `Tree(root)` (R17). -/
def State.tree (s : State) : Option Tree := treeAt arenaSize s s.root

/-- The arena indices of the nodes below and including `i`, in pre-order. -/
def indicesAt (bound : Nat) (s : State) (i : Idx) : List Idx :=
  match bound with
  | 0 => []
  | bound + 1 =>
    if (s.nodeAt i).leaf then [i]
    else i :: (indicesAt bound s (s.nodeAt i).left ++ indicesAt bound s (s.nodeAt i).right)

/-- The number of nodes of a tree. -/
def Tree.size (t : Tree) : Nat :=
  match t with
  | .leaf _ => 1
  | .internal l r => 1 + l.size + r.size

/-- The leaf symbols of a tree from left to right. -/
def Tree.leaves (t : Tree) : List Sym :=
  match t with
  | .leaf s => [s]
  | .internal l r => l.leaves ++ r.leaves

/-- Is the top node of a tree internal? -/
def Tree.isInternal (t : Tree) : Bool :=
  match t with
  | .leaf _ => false
  | .internal _ _ => true

/-- The header of a tree: pre-order tokens (R69, R114, R115). -/
def Tree.header (t : Tree) : List Bool :=
  match t with
  | .leaf s => true :: msbBits 9 s
  | .internal l r => false :: (l.header ++ r.header)

/-- The tokens of a tree in stream order, each as its bits (R69): joined, they are its header. -/
def Tree.tokens (t : Tree) : List (List Bool) :=
  match t with
  | .leaf s => [true :: msbBits 9 s]
  | .internal l r => [false] :: (l.tokens ++ r.tokens)

/-- The number of header bits before the flag bit of node number `n`, counted from 0 (R123). -/
def Tree.bitsBefore (t : Tree) (n : Nat) : Nat := ((t.tokens.take n).map List.length).sum

/-- The codes of a tree's leaves: the path from the root, 0 left and 1 right (R106). -/
def Tree.codes (t : Tree) : List (Sym × List Bool) :=
  match t with
  | .leaf s => [(s, [])]
  | .internal l r =>
    (l.codes.map fun c => (c.1, false :: c.2)) ++ (r.codes.map fun c => (c.1, true :: c.2))

/-- The code of a symbol in a tree; the empty bit string where no leaf has it (R19, R108). -/
def Tree.codeOf (t : Tree) (sym : Sym) : List Bool := (t.codes.lookup sym).getD []

/-- Follow body bits from the top of a tree to a leaf: its symbol and the bits after it; `none` where the bits end first
(R139). -/
def Tree.follow (t : Tree) (bits : List Bool) : Option (Sym × List Bool) :=
  match t, bits with
  | .leaf s, bits => some (s, bits)
  | .internal _ _, [] => none
  | .internal l _, false :: bits => l.follow bits
  | .internal _ r, true :: bits => r.follow bits

/-- `t.Decodes bits out rest`: read with the tree `t`, the body `bits` gives the bytes `out` and ends at the end-of-stream
symbol, with `rest` left (R139, R142). -/
inductive Tree.Decodes (t : Tree) : List Bool → List (BitVec 8) → List Bool → Prop where
  | stop {bits rest : List Bool} : t.follow bits = some (eosSym, rest) → Decodes t bits [] rest
  | word {bits more rest : List Bool} {out : List (BitVec 8)} {sym : Sym} :
      t.follow bits = some (sym, more) → sym ≠ eosSym → Decodes t more out rest →
      Decodes t bits (sym.setWidth 8 :: out) rest

/-- `t.RunsOut bits out`: read with the tree `t`, the body `bits` gives the bytes `out` and then ends before an
end-of-stream symbol (R141). -/
inductive Tree.RunsOut (t : Tree) : List Bool → List (BitVec 8) → Prop where
  | stop {bits : List Bool} : t.follow bits = none → RunsOut t bits []
  | word {bits more : List Bool} {out : List (BitVec 8)} {sym : Sym} :
      t.follow bits = some (sym, more) → sym ≠ eosSym → RunsOut t more out →
      RunsOut t bits (sym.setWidth 8 :: out)

/-- The 8-bit words still to be read from the source; a last partial word is none (R42, R83). -/
def State.words (s : State) : List (BitVec 8) := bytesOf s.src.rest

/-- The body for some words with the codes of a tree: the terminator once, at the end (R132, R135). -/
def Tree.body (t : Tree) (words : List (BitVec 8)) : List Bool :=
  words.flatMap (fun x => t.codeOf (x.setWidth 9)) ++ t.codeOf eosSym

/-- Magic, header and body of a compressed stream (R50). -/
def fileBits (magic : BitVec 32) (t : Tree) (words : List (BitVec 8)) : List Bool :=
  msbBits 32 magic ++ t.header ++ t.body words

/-- The symbols with a positive count, in ascending order (R93). -/
def State.positive (s : State) : List Nat := (List.range alphabet).filter fun x => decide (s.freqAt x ≠ 0#32)

/-- The queue entry of an arena node after BUILD with `k` leaves: a leaf's sequence number is its symbol, that of the node made
by merge `j` is `257 + j` (R94, R99). -/
def State.entryOf (s : State) (k : Nat) (i : Idx) : QEntry :=
  { weight := (s.nodeAt i).weight
    seq := if i.toNat < k then (s.nodeAt i).sym.setWidth 10 else BitVec.ofNat 10 (257 + (i.toNat - k))
    idx := i }

/-- Node `i` is in the queue before merge `j`: it is allocated and no earlier merge took it (R18, R95). -/
def State.Parentless (s : State) (k j : Nat) (i : Idx) : Prop :=
  i.toNat < k + j ∧ ∀ p : Idx, k ≤ p.toNat → p.toNat < k + j → (s.nodeAt p).left ≠ i ∧ (s.nodeAt p).right ≠ i

/-- Node `p` is what merge `j` must make: its left child is the least entry of the queue, its right child the least remaining
one, its weight their sum (R94, R95, R96). -/
def State.IsMerge (s : State) (k j : Nat) (p : Node) : Prop :=
  p.leaf = false ∧ p.sym = 0#9 ∧ p.weight = (s.nodeAt p.left).weight + (s.nodeAt p.right).weight ∧
  s.Parentless k j p.left ∧ s.Parentless k j p.right ∧ p.left ≠ p.right ∧
  ∀ i : Idx, s.Parentless k j i → i ≠ p.left →
    (s.entryOf k p.left).before (s.entryOf k i) = true ∧
    (i ≠ p.right → (s.entryOf k p.right).before (s.entryOf k i) = true)

/-- The bits that a transaction appends to the sink by a write (R44). -/
def Tx.written (x : Tx) : List Bool :=
  match x with
  | .sinkWrite n v => msbBits n v
  | .srcRead _ _ | .srcReset | .sinkClose => []

/-- The transaction of reading one 8-bit word. -/
def readOf (x : BitVec 8) : Tx := .srcRead 8 (some (x.setWidth 32))

end Sys2Proof.Machine
end

