-- ==== Sys2Proof/Safety.lean ====
section
/-!
DEFINITION. What counts as a safe run: the conditions under which commands complete, and the invariants that every step keeps
(spec/10_state.md R13, R17, R18, R19; spec/00_scope.md R6).
-/
namespace Sys2Proof.Machine

/-! ## Conditions on a state -/

/-- The CORE waits for a command (R24, R153). -/
abbrev State.isIdle (s : State) : Prop := s.busy = false ∧ s.phase = .idle

/-- The source's collaborator never stalls (R201). -/
abbrev State.sourceReady (s : State) : Prop := s.src.answers = none

/-- The sink is open (R198) and its collaborator never stalls (R201). -/
abbrev State.sinkReady (s : State) : Prop := s.snk.closed = false ∧ s.snk.answers = none

/-- Is an instruction a word written to `CMD` (R62)? -/
def isCommand (i : Instr) : Bool :=
  match i with
  | .hdrNode | .hdrLeaf _ | .fileMagic => false
  | .analyze | .build | .gencodes | .wrmagic | .wrhdr | .encbody | .close | .rdmagic | .rdhdr | .decbody
  | .compress | .decompress | .clear | .illegal0 | .illegalE | .illegalF | .illegalDefault _ => true

/-- The error kinds that a command may raise (R171, R174). -/
def mayRaise (i : Instr) : List ErrKind :=
  match i with
  | .analyze => [.countOverflow]
  | .build => [.sequence]
  | .gencodes => [.sequence]
  | .wrmagic => []
  | .wrhdr => [.sequence]
  | .encbody => [.noCode, .sequence]
  | .close => []
  | .rdmagic => [.badMagic]
  | .rdhdr => [.truncatedHeader, .treeOverflow, .badTree]
  | .decbody => [.truncatedBody, .sequence]
  | .compress => [.countOverflow, .noCode]
  | .decompress => [.badMagic, .truncatedHeader, .treeOverflow, .badTree, .truncatedBody]
  | .clear => []
  | .illegal0 | .illegalE | .illegalF | .illegalDefault _ => [.illegalCmd]
  | .hdrNode | .hdrLeaf _ => [.truncatedHeader, .treeOverflow, .badTree, .truncatedBody, .noCode]
  | .fileMagic => [.badMagic, .truncatedHeader, .treeOverflow, .badTree, .truncatedBody, .noCode]

/-- The control state of R24: every value that the spec gives for reset and for CLEAR. -/
def State.hasResetValues (t : State) : Prop :=
  t.phase = .idle ∧ t.errCode = none ∧ t.busy = false ∧ t.done = false ∧ t.freqValid = false ∧
  t.treeValid = false ∧ t.treeOrigin = .built ∧ t.codesValid = false ∧ t.nodeCount = 0#10 ∧ t.root = 0#10 ∧
  t.sel = 0#10 ∧ t.cursor = 0#10 ∧ t.pq = [] ∧ t.freqAt 256 = 1#32

/-! ## Outcomes -/

/-- An outcome with its next state changed. -/
def mapNext (f : State → State) (o : Host.Outcome State Fault Refusal) : Host.Outcome State Fault Refusal :=
  match o with
  | .next s => .next (f s)
  | .fault r => .fault r
  | .refused r => .refused r

/-- The commands of a list one after another, as a host issues them, with a stop where the CORE is not idle again (R73). -/
def runCommands (is : List Instr) (s : State) : Host.Outcome State Fault Refusal :=
  match is with
  | [] => .next s
  | i :: is =>
    match exec i s with
    | .next t => if t.phase = .idle then runCommands is t else .next t
    | .fault r => .fault r
    | .refused r => .refused r

/-- The commands of a list after an outcome, with a stop where it is not an idle CORE (R73). -/
def thenCommands (is : List Instr) (o : Host.Outcome State Fault Refusal) : Host.Outcome State Fault Refusal :=
  match o with
  | .next t => if t.phase = .idle then runCommands is t else .next t
  | .fault r => .fault r
  | .refused r => .refused r

/-- A state with the register `macro` (R22) at 0, for comparing runs that differ in it alone. -/
def State.forgetMacro (s : State) : State := { s with work := { s.work with macroCmd := noMacro } }

/-! ## Invariants -/

/-- The sequencer's registers agree (R11 to R13, R176): `busy` is exactly a running phase, an error code is exactly phase
`ERROR`, codes are valid only with a built tree, an error hides every table, and nothing is valid while a header is read. -/
def State.sequencerOk (s : State) : Bool :=
  decide (s.busy = decide (s.phase ≠ .idle ∧ s.phase ≠ .error))
    && decide (s.err = decide (s.phase = .error))
    && (!s.codesValid || (s.treeValid && decide (s.treeOrigin = .built)))
    && (decide (s.phase ≠ .error) || (!s.done && !s.freqValid && !s.treeValid && !s.codesValid))
    && (!s.busy || !s.done)
    && (decide (s.phase ≠ .rdhdr) || (!s.treeValid && !s.codesValid))

/-- A command is atomic (R6): between steps the CORE is busy only where a collaborator of the running phase stalls (R201). -/
def State.atomicOk (s : State) : Bool :=
  match s.phase with
  | .idle | .error => !s.busy
  | .build | .gencodes => false
  | .analyze | .rdmagic | .rdhdr => decide (s.src.answers = some 0)
  | .wrmagic | .wrhdr | .close => decide (s.snk.answers = some 0)
  | .encbody | .decbody => decide (s.src.answers = some 0) || decide (s.snk.answers = some 0)

/-- The tree invariants of R17: a valid arena holds one finite tree whose nodes are the allocated entries, each once; its root
is internal; a built tree's symbols are at most 256, unique, and the end-of-stream symbol is among them. -/
def State.arenaOk (s : State) : Bool :=
  !s.treeValid ||
    match s.tree with
    | none => false
    | some t =>
      t.isInternal
        && decide (t.size = s.nodeCount.toNat)
        && decide (s.nodeCount.toNat ≤ s.cfg.nodeCap)
        && decide (indicesAt arenaSize s s.root).Nodup
        && (indicesAt arenaSize s s.root).all (fun i => decide (i.toNat < s.nodeCount.toNat))
        && (decide (s.treeOrigin = .parsed)
              || (decide t.leaves.Nodup && t.leaves.all (fun x => decide (x.toNat ≤ 256)) && t.leaves.contains eosSym))

/-- The code table is that of the tree in the arena (R13, R19, R108). -/
def State.codesOk (s : State) : Bool :=
  !s.codesValid ||
    match s.tree with
    | none => false
    | some t => (List.range alphabet).all fun x => decide (s.codeOf x = t.codeOf (BitVec.ofNat 9 x))

/-- The invariant of a run: what holds of every state a run from reset reaches, whatever the host does. -/
def State.runOk (s : State) : Bool :=
  s.cfg.wf && s.sequencerOk && s.atomicOk && s.arenaOk && s.codesOk && Memory.wf s && s.pq.isEmpty

end Sys2Proof.Machine
end

