-- ==== Sys2Proof/Certificates/Slice0/Obligations.lean ====
section
/-!
DEFINITION. The statements for the provers, from the numbered rules of spec/. `cites` and quotes stand in OBLIGATIONS.json.
-/

open Sys2Proof Sys2Proof.Machine

/-! ## Encodings -/

/-- Words of the opcode table, one or more of each format, decode to their rows (R62, R63, R64). That a token row's word is read
with the first stream bit as its most significant bit is the model's choice (assumption 25), and the value of the magic
word is presumed (assumption 1); the bits of the formats are those of R69 and R71. -/
def Obligations.TableWordsDecode : Prop :=
  decodeTableWord 64 0x1 = some .analyze ∧ decodeTableWord 64 0x9 = some .rdhdr ∧
  decodeTableWord 64 0xD = some .clear ∧ decodeTableWord 64 0xE = some .illegalE ∧
  decodeTableWord 64 0x8000000000000001 = some (.illegalDefault 0x8000000000000001#64) ∧
  decodeTableWord 8 0 = some .hdrNode ∧ decodeTableWord 16 0x241 = some (.hdrLeaf 0x41#9) ∧
  decodeTableWord 32 0xFACE8201 = some .fileMagic

/-- Decoding the encoding of a well-formed instruction, whatever follows it on its stream, gives the instruction and what
follows (R62 to R64, R69 to R71), for every value of the magic. -/
def Obligations.DecodeInvertsEncode : Prop :=
  ∀ (magic : BitVec 32) (i : Instr) (rest : List Bool), WellFormed i = true →
    decode magic ((encode magic i).followedBy rest) = .ok (i, (encode magic i).remainder rest)

/-- Every 64-bit word is the encoding of exactly the well-formed command it decodes to (R62, R63, R64). A bit string either starts
with a token, whose encoding is then exactly the bits taken, or has no flag bit, or has a leaf flag and fewer than nine
bits after it (R69, R70). -/
def Obligations.EveryEncodingHasOneMeaning : Prop :=
  (∀ (magic : BitVec 32) (v : Reg), WellFormed (decodeCmd v) = true ∧ encode magic (decodeCmd v) = .cmd v) ∧
  (∀ (magic : BitVec 32) (bits : List Bool),
    match decodeToken bits with
    | .ok (i, rest) => (encode magic i).followedBy rest = .token bits
    | .error e => (bits = [] ∧ e = .truncatedFlag) ∨
        (∃ more, bits = true :: more ∧ more.length < 9 ∧ e = .truncatedSymbol))

/-! ## Steps -/

/-- A word that the host writes to `CMD` is decoded and executed in the state after the write was taken (R60, R62). -/
def Obligations.StepRunsTheCommandWritten : Prop :=
  ∀ (s : State) (v : Reg) (rest : List HostAction), s.pending = .write cmdAddr v :: rest →
    step s = exec (decodeCmd v) { s with pending := rest }

/-- Inside a running RDHDR, RDMAGIC, WRHDR or WRMAGIC, with no host action to come, a step executes the token that stands next on
the source, or in the arena; a CORE that runs no command waits, unchanged (R24, R185). That a step runs one token of a
command part-way is the model's choice (assumption 8; R6 makes a command atomic), and so is that a host action comes first
(assumption 13); which token is next follows R69, R71, R115 and R123. -/
def Obligations.StepRunsTheNextTokenOrWaits : Prop :=
  ∀ s : State, s.pending = [] →
    (s.busy = false → step s = .next s) ∧
    (s.busy = true → s.phase = .rdhdr → ∀ i more, decodeToken s.src.rest = .ok (i, more) → step s = exec i s) ∧
    (s.busy = true → s.phase = .rdmagic → ∀ i more, decodeMagic s.cfg.magic s.src.rest = .ok (i, more) →
      step s = exec i s) ∧
    (s.busy = true → s.phase = .wrhdr → ∀ e stk, s.work.stk = e :: stk → step s = exec (tokenOf (s.nodeAt e.idx)) s) ∧
    (s.busy = true → s.phase = .wrmagic → step s = exec .fileMagic s)

/-! ## Reset, CLEAR and errors -/

/-- Reset, from any state, and CLEAR, in `IDLE` or `ERROR`, complete and give the values of R24, `done` included; CLEAR, and reset
of a CORE that runs no command, leave the streams as they are (R150, R178, R190, R191; after a reset while busy they are
unknown, R192). That the value on the read port stays is the model's choice (assumption 16), and so is that the model's
own record of transactions stays, on a reset while busy too (assumptions 12, 17). -/
def Obligations.ResetAndClearGiveTheResetState : Prop :=
  State.reset.hasResetValues ∧
  (∀ (s : State) (rest : List HostAction), s.pending = .reset :: rest →
    ∃ t, step s = .next t ∧ t.hasResetValues ∧ t.trace = s.trace ∧ t.cfg = s.cfg ∧ t.pending = rest ∧
      t.rdata = s.rdata ∧ (s.busy = false → t.src = s.src ∧ t.snk = s.snk)) ∧
  (∀ s : State, s.busy = false →
    ∃ t, exec .clear s = .next t ∧ t.hasResetValues ∧
      t.src = s.src ∧ t.snk = s.snk ∧ t.trace = s.trace ∧ t.cfg = s.cfg ∧ t.pending = s.pending ∧ t.rdata = s.rdata)

/-- A command written while a command runs is ignored: no state changes (R153 case (a)). -/
def Obligations.BusyCoreIgnoresCommands : Prop :=
  ∀ (i : Instr) (s : State), isCommand i = true → s.busy = true → exec i s = .next s

/-- In phase `ERROR` every write to `CMD` but the value 0xD is ignored, and register reads and `SEL` writes still work
(R177). -/
def Obligations.ErrorPhaseIgnoresAllButClear : Prop :=
  ∀ (s : State) (rest : List HostAction), s.phase = .error →
    (∀ v : Reg, v ≠ 0xD#64 → s.pending = .write cmdAddr v :: rest → step s = .next { s with pending := rest }) ∧
    (∀ (a : BitVec 5) (v : Reg), regValue a s = some v → s.pending = .read a :: rest →
      step s = .next { s with pending := rest, rdata := v }) ∧
    (∀ v : Reg, s.pending = .write selAddr v :: rest →
      step s = .next { s with pending := rest, sel := v.setWidth 10 })

/-- Every word that is not one of the thirteen opcodes with zero upper bits raises `IllegalCmd` in `IDLE`, before anything else
happens (R64, R174). -/
def Obligations.IllegalWordsRaiseIllegalCmd : Prop :=
  (∀ (s : State) (v : Reg) (rest : List HostAction), s.isIdle → s.pending = .write cmdAddr v :: rest →
    (16 ≤ v.toNat ∨ v.toNat = 0 ∨ v.toNat = 14 ∨ v.toNat = 15) →
    step s = .next { s with pending := rest, errCode := some .illegalCmd, phase := .error, done := false,
                            freqValid := false, treeValid := false, codesValid := false }) ∧
  (∀ (s : State) (i : Instr), s.isIdle →
    (i = .illegal0 ∨ i = .illegalE ∨ i = .illegalF ∨ ∃ v, i = .illegalDefault v) →
    exec i s = .next { s with errCode := some .illegalCmd, phase := .error, done := false,
                              freqValid := false, treeValid := false, codesValid := false })

/-- A legal command whose prerequisite flag is not set raises `Sequence` in `IDLE` and runs nothing: only the sequencer's
registers change (R154, R174). -/
def Obligations.MissingPrerequisiteRaisesSequence : Prop :=
  ∀ (s : State) (i : Instr), s.isIdle →
    (i = .build ∧ s.freqValid = false ∨
      i = .gencodes ∧ (s.treeValid = false ∨ s.treeOrigin = .parsed) ∨
      i = .wrhdr ∧ s.treeValid = false ∨
      i = .encbody ∧ s.codesValid = false ∨
      i = .decbody ∧ s.treeValid = false) →
    exec i s = .next { s with errCode := some .sequence, phase := .error, done := false,
                              freqValid := false, treeValid := false, codesValid := false }

/-- Error entry (R176): a command that ends in phase `ERROR` leaves a code, `busy`, `done` and the three valid flags cleared. The
sink holds exactly what it held before and the bits of the command's completed write transactions, in their order; none of
its transactions is a close. (The record of transactions is the model's own, assumption 17.) -/
def Obligations.ErrorEntryClearsTheFlagsAndLeavesTheSinkOpen : Prop :=
  ∀ (i : Instr) (s t : State), s.isIdle → exec i s = .next t → t.phase = .error →
    t.err = true ∧ t.busy = false ∧ t.done = false ∧ t.freqValid = false ∧ t.treeValid = false ∧
    t.codesValid = false ∧ t.snk.closed = s.snk.closed ∧
    ∃ txs : List Tx, t.trace = s.trace ++ txs ∧ t.snk.bits = s.snk.bits ++ txs.flatMap Tx.written ∧ Tx.sinkClose ∉ txs

/-- A command raises only the kinds that the table of R171 gives it. -/
def Obligations.CommandsRaiseOnlyTheirKinds : Prop :=
  ∀ (i : Instr) (s t : State) (k : ErrKind), s.cfg.wf = true → s.isIdle → s.errCode = none → isCommand i = true →
    exec i s = .next t → t.errCode = some k → k ∈ mayRaise i

/-! ## Invariants and whole-machine rules -/

/-- Every step, of any state, keeps the agreement of the sequencer's registers (R11 to R13, R176). -/
def Obligations.StepKeepsSequencerOk : Prop :=
  ∀ s t : State, s.sequencerOk = true → step s = .next t → t.sequencerOk = true

/-- Every step keeps the invariant of a run: the flags agree, a command is atomic, a valid arena is one tree whose nodes are
the allocated entries, the code table is that tree's, the streams keep their form and the queue is empty between
commands (R6, R13, R17, R18, R41). -/
def Obligations.StepKeepsRunOk : Prop :=
  ∀ s t : State, s.runOk = true → step s = .next t → t.runOk = true

/-- Both invariants hold right after reset. -/
def Obligations.InvariantsHoldAtReset : Prop :=
  State.reset.sequencerOk = true ∧ State.reset.runOk = true

/-- A step never alters the configuration or the source's content, never takes a bit back from the sink and never reopens it,
unless the host opens another stream (R10, R41, R43, R44, R49; when it may is the model's choice, assumption 14). -/
def Obligations.StreamsAreReadAndAppendedOnly : Prop :=
  ∀ s t : State, step s = .next t →
    t.cfg = s.cfg ∧
    ((∀ b p a rest, s.pending ≠ .openSource b p a :: rest) → t.src.bits = s.src.bits) ∧
    ((∀ b c a rest, s.pending ≠ .openSink b c a :: rest) →
      (∃ more, t.snk.bits = s.snk.bits ++ more) ∧ (s.snk.closed = true → t.snk = s.snk))

/-- No command but CLEAR reads or writes the selector: with another selector it does the same and leaves it (R21, R186). -/
def Obligations.CommandsNeitherReadNorWriteTheSelector : Prop :=
  ∀ (i : Instr) (s : State) (x : BitVec 10), i ≠ .clear →
    exec i { s with sel := x } = mapNext (fun t => { t with sel := x }) (exec i s) ∧
    (∀ t, exec i s = .next t → t.sel = s.sel)

/-- The count of the end-of-stream symbol reads 1 in every state (R14). -/
def Obligations.EndOfStreamCountIsHardwired : Prop :=
  ∀ s : State, s.freqAt 256 = 1#32 ∧ s.counts.length = 257 ∧ s.counts[256]? = some 1#32

/-! ## The register port -/

/-- The bits of `STATUS` (R65), and the reads of the registers that are not windows: `CMD` 0, `STATUS`, `ERR`, `SEL`, `MAGIC_REG`,
the reserved ones 0; such a read changes nothing but the value on the port (R60, R61, R66, R156). That `STATUS` and `ERR`
show the registers as they stand while busy too, where the spec leaves the value open (U3), is the model's choice
(assumption 22). -/
def Obligations.StatusAndPlainRegistersRead : Prop :=
  (∀ s : State,
    s.statusWord.getLsbD 0 = s.busy ∧ s.statusWord.getLsbD 1 = s.done ∧ s.statusWord.getLsbD 2 = s.err ∧
    s.statusWord.getLsbD 3 = s.freqValid ∧ s.statusWord.getLsbD 4 = s.treeValid ∧
    s.statusWord.getLsbD 5 = (s.treeValid && decide (s.treeOrigin = .parsed)) ∧
    s.statusWord.getLsbD 6 = s.codesValid ∧ s.statusWord.getLsbD 7 = false ∧
    s.statusWord.extractLsb' 8 4 = s.phase.code ∧ s.statusWord.extractLsb' 12 52 = 0#52) ∧
  (∀ (s : State) (a : BitVec 5) (rest : List HostAction), s.pending = .read a :: rest →
    (a = 0x00#5 → step s = .next { s with pending := rest, rdata := 0#64 }) ∧
    (a = 0x01#5 → step s = .next { s with pending := rest, rdata := s.statusWord }) ∧
    (a = 0x02#5 → step s = .next { s with pending := rest, rdata := s.errCodeBits.setWidth 64 }) ∧
    (a = 0x04#5 → step s = .next { s with pending := rest, rdata := s.sel.setWidth 64 }) ∧
    (a = 0x0D#5 → step s = .next { s with pending := rest, rdata := s.cfg.magic.setWidth 64 }) ∧
    (14 ≤ a.toNat → step s = .next { s with pending := rest, rdata := 0#64 }))

/-- A defined window shows the selected table entry in the fields of R61, and the read changes nothing else (R67, R68). -/
def Obligations.DefinedWindowsShowTheTables : Prop :=
  ∀ (s : State) (a : BitVec 5) (rest : List HostAction), s.pending = .read a :: rest → s.busy = false →
    (a = 0x03#5 → s.treeValid = true →
      ∃ v, step s = .next { s with pending := rest, rdata := v } ∧
        v.toNat = s.root.toNat + 1024 * s.nodeCount.toNat) ∧
    (a = 0x05#5 → s.freqValid = true → s.sel.toNat ≤ 256 →
      step s = .next { s with pending := rest, rdata := (s.freqAt s.sel.toNat).setWidth 64 }) ∧
    (a = 0x06#5 → s.treeValid = true → s.sel.toNat < s.nodeCount.toNat →
      ∃ v, step s = .next { s with pending := rest, rdata := v } ∧
        v.toNat = (s.nodeAt s.sel).leaf.toNat + 2 * (s.nodeAt s.sel).sym.toNat
          + 2 ^ 10 * (s.nodeAt s.sel).left.toNat + 2 ^ 20 * (s.nodeAt s.sel).right.toNat) ∧
    (a = 0x07#5 → s.treeValid = true → s.sel.toNat < s.nodeCount.toNat →
      step s = .next { s with pending := rest, rdata := (s.nodeAt s.sel).weight.setWidth 64 }) ∧
    (a = 0x08#5 → s.codesValid = true → s.sel.toNat ≤ 256 →
      step s = .next { s with pending := rest, rdata := (s.codeLenAt s.sel.toNat).setWidth 64 }) ∧
    (∀ j : Nat, j < 4 → a.toNat = 9 + j → s.codesValid = true → s.sel.toNat ≤ 256 →
      ∃ v, step s = .next { s with pending := rest, rdata := v } ∧
        ∀ b : Nat, b < 64 → v.getLsbD b = (s.codeBitsAt s.sel.toNat).getLsbD (64 * j + b))

/-- A window read while its table is not valid, while busy, or with the selector out of range completes with a free value and
changes nothing else of the machine (R68, U4; the draw counter is the model's own, assumptions 5, 7). -/
def Obligations.UndefinedWindowsGiveAFreeValue : Prop :=
  ∀ (s : State) (a : BitVec 5) (rest : List HostAction), s.pending = .read a :: rest →
    ((a = 0x03#5 ∧ (s.busy = true ∨ s.treeValid = false)) ∨
      (a = 0x05#5 ∧ (s.busy = true ∨ s.freqValid = false ∨ 256 < s.sel.toNat)) ∨
      ((a = 0x06#5 ∨ a = 0x07#5) ∧ (s.busy = true ∨ s.treeValid = false ∨ s.nodeCount.toNat ≤ s.sel.toNat)) ∨
      ((8 ≤ a.toNat ∧ a.toNat ≤ 12) ∧ (s.busy = true ∨ s.codesValid = false ∨ 256 < s.sel.toNat))) →
    step s = .next { s with pending := rest, rdata := freeRead a s.freeCount, freeCount := s.freeCount + 1 }

/-- `SEL` takes the low ten bits of what is written, at any time; a write to any other register but `CMD` is ignored (R61,
R156). -/
def Obligations.RegisterWritesReachOnlyTheSelector : Prop :=
  ∀ (s : State) (a : BitVec 5) (v : Reg) (rest : List HostAction), s.pending = .write a v :: rest →
    (a = selAddr → step s = .next { s with pending := rest, sel := v.setWidth 10 }) ∧
    (a ≠ selAddr → a ≠ cmdAddr → step s = .next { s with pending := rest })

/-! ## The streams -/

/-- What `SinkWrite(n, v)` appends, `SrcRead(n)` reads back as the low `n` bits of `v`, from any position (R42, R44); the bytes of a
file are its bits, most significant first (R41, R46). -/
def Obligations.ReadsGiveBackWhatWasWritten : Prop :=
  (∀ (n : Nat) (v : BitVec 32) (s t u : State) (before after : List Bool),
    1 ≤ n → n ≤ 32 → s.sinkReady → sinkWrite n v s = .ok () t →
    u.sourceReady → t.snk.bits = s.snk.bits ++ before → u.src.rest = before ++ after →
    ∃ u', srcRead n u = .ok (some (BitVec.ofNat 32 (v.toNat % 2 ^ n))) u' ∧ u'.src.rest = after ∧
      u'.src.pos = u.src.pos + n) ∧
  (∀ (bytes : List (BitVec 8)) (tail : List Bool), tail.length < 8 → bytesOf (bitsOfBytes bytes ++ tail) = bytes)

/-- CLOSE completes on an open sink: the sink is padded with `PAD_BIT` to the next multiple of eight bits and closed, and nothing
else but `done` changes (R45, R149). A command that would write or close a closed sink is refused by name (R198, U6; the
refusal is the model's choice, assumption 10): CLOSE, WRMAGIC, WRHDR of a valid tree, ENCBODY of words that have codes,
DECBODY of a body with a byte in it, COMPRESS, and DECOMPRESS of a well-formed stream. -/
def Obligations.ClosePadsAndClosesTheSinkOnce : Prop :=
  (∀ s : State, s.isIdle → s.sinkReady →
      ∃ t n, exec .close s = .next t ∧ n < 8 ∧ (s.snk.bits.length + n) % 8 = 0 ∧
        t = { s with done := true, work := { s.work with macroCmd := t.work.macroCmd }, trace := s.trace ++ [.sinkClose],
                     snk := { s.snk with bits := s.snk.bits ++ List.replicate n s.cfg.padBit, closed := true } }) ∧
  (∀ s : State, s.isIdle → s.snk.closed = true →
      exec .close s = .refused .sinkClosed ∧ exec .wrmagic s = .refused .sinkClosed ∧
      (s.treeValid = true → exec .wrhdr s = .refused .sinkClosed)) ∧
  (∀ s : State, s.isIdle → s.snk.closed = true → s.sourceReady →
      (s.codesValid = true → (∀ x ∈ s.words, s.codeLenAt x.toNat ≠ 0#9) → s.codeLenAt 256 ≠ 0#9 →
        exec .encbody s = .refused .sinkClosed) ∧
      (∀ (tr : Tree) (x : BitVec 8) (out : List (BitVec 8)) (more : List Bool), s.treeValid = true → s.tree = some tr →
        tr.isInternal = true → tr.Decodes s.src.rest (x :: out) more → exec .decbody s = .refused .sinkClosed) ∧
      (s.cfg.wf = true → (∀ x, s.words.count x ≤ s.cfg.cmax) → exec .compress s = .refused .sinkClosed) ∧
      (∀ (tr : Tree) (body more : List Bool) (out : List (BitVec 8)), s.cfg.wf = true →
        s.src.rest = msbBits 32 s.cfg.magic ++ tr.header ++ body → tr.isInternal = true → tr.size ≤ s.cfg.nodeCap →
        tr.Decodes body out more → exec .decompress s = .refused .sinkClosed))

/-- A command whose first transaction its collaborator never completes stays busy in its phase, with the streams as they are,
through every step in which the host does nothing; reset ends it, with the environment unknown afterwards but for the
source's content and what the sink already held (R192, R201, U5; how stalls are modelled is the model's choice, assumptions
11, 12). -/
def Obligations.StalledCommandStaysBusyUntilReset : Prop :=
  ∀ (i : Instr) (p : Phase) (s : State), s.isIdle → s.pending = [] →
    ((s.src.answers = some 0 ∧ (i = .analyze ∧ p = .analyze ∨ i = .rdmagic ∧ p = .rdmagic ∨ i = .rdhdr ∧ p = .rdhdr ∨
        i = .compress ∧ p = .analyze ∨ i = .decompress ∧ p = .rdmagic)) ∨
      (s.src.answers = some 0 ∧ (i = .encbody ∧ p = .encbody ∧ s.codesValid = true ∨
        i = .decbody ∧ p = .decbody ∧ s.treeValid = true)) ∨
      (s.snk.closed = false ∧ s.snk.answers = some 0 ∧ (i = .wrmagic ∧ p = .wrmagic ∨ i = .close ∧ p = .close ∨
        i = .wrhdr ∧ p = .wrhdr ∧ s.treeValid = true))) →
    ∃ t, exec i s = .next t ∧ t.busy = true ∧ t.done = false ∧ t.phase = p ∧ t.src = s.src ∧ t.snk = s.snk ∧
      step t = .next t ∧
      ∃ u, step { t with pending := [.reset] } = .next u ∧ u.busy = false ∧ u.phase = .idle ∧ u.src.bits = s.src.bits ∧
        ∃ more, u.snk.bits = s.snk.bits ++ more

/-! ## ANALYZE -/

/-- ANALYZE completes where no counter would overflow: every counter holds the number of its words, from the read position to
the end, the source is rewound, and the transactions are one read a word, the read that finds the end, one rewind
(R83, R85). -/
def Obligations.AnalyzeCountsTheWords : Prop :=
  ∀ s : State, s.cfg.wf = true → s.isIdle → s.sourceReady → (∀ x, s.words.count x ≤ s.cfg.cmax) →
    ∃ t, exec .analyze s = .next t ∧
      (∀ x : BitVec 8, (t.freqAt x.toNat).toNat = s.words.count x) ∧ t.freqAt 256 = 1#32 ∧
      t.src = { s.src with pos := 0 } ∧
      t.freqValid = true ∧ t.treeValid = false ∧ t.codesValid = false ∧ t.done = true ∧ t.isIdle ∧
      t.trace = s.trace ++ s.words.map readOf ++ [.srcRead 8 none, .srcReset]

/-- A counter at `CMAX` that would be incremented ends ANALYZE with `CountOverflow`: the counter stays at `CMAX`, the failing
word has been read, the source is not rewound and the sink is untouched (R83, R84). -/
def Obligations.AnalyzeOverflowsAtCmax : Prop :=
  ∀ (s : State) (before after : List (BitVec 8)) (x : BitVec 8), s.cfg.wf = true → s.isIdle → s.sourceReady →
    s.words = before ++ x :: after → before.count x = s.cfg.cmax → (∀ y, before.count y ≤ s.cfg.cmax) →
    ∃ t, exec .analyze s = .next t ∧ t.errCode = some .countOverflow ∧ t.phase = .error ∧
      (t.freqAt x.toNat).toNat = s.cfg.cmax ∧ t.src.pos = s.src.pos + 8 * (before.length + 1) ∧ t.snk = s.snk ∧
      t.trace = s.trace ++ (before ++ [x]).map readOf

/-! ## BUILD -/

/-- The queue: the order is that of the 50-bit number `weight ‖ seq`, strict and total on entries with different sequence numbers;
insertion keeps the order and adds exactly the entry; the entry removed is then before every other (R18, R94). -/
def Obligations.QueueGivesTheLeastEntry : Prop :=
  (∀ x y : QEntry,
    x.before y = decide ((x.weight ++ x.seq).toNat < (y.weight ++ y.seq).toNat) ∧
    (x.seq ≠ y.seq → (x.before y = true ↔ y.before x = false))) ∧
  (∀ (e : QEntry) (q : List QEntry), q.Pairwise (fun x y => x.before y = true) → (∀ x ∈ q, x.seq ≠ e.seq) →
    (insertEntry e q).Pairwise (fun x y => x.before y = true) ∧ (insertEntry e q).Perm (e :: q)) ∧
  (∀ s t e, s.pq.Pairwise (fun x y => x.before y = true) → removeMin s = .ok e t →
    s.pq.Perm (e :: t.pq) ∧ ∀ x ∈ t.pq, e.before x = true)

/-- The degenerate case: with no byte counted, BUILD makes the end-of-stream leaf, the placeholder and the wrapper (R98). -/
def Obligations.BuildWrapsALoneLeaf : Prop :=
  ∀ s : State, s.cfg.wf = true → s.isIdle → s.freqValid = true → (∀ x : BitVec 8, s.freqAt x.toNat = 0#32) →
    ∃ t, exec .build s = .next t ∧
      t.nodeAt 0#10 = { leaf := true, sym := 256#9, weight := 1#40, left := 0#10, right := 0#10 } ∧
      t.nodeAt 1#10 = { leaf := true, sym := s.cfg.placeholderSym, weight := 0#40, left := 0#10, right := 0#10 } ∧
      t.nodeAt 2#10 = { leaf := false, sym := 0#9, weight := 1#40, left := 0#10, right := 1#10 } ∧
      t.root = 2#10 ∧ t.nodeCount = 3#10 ∧
      t.tree = some (.internal (.leaf 256#9) (.leaf s.cfg.placeholderSym)) ∧ t.treeValid = true ∧
      t.pq = []

/-- BUILD completes on every frequency table, for the two or more symbols of an input that is not empty: the leaves lie in
ascending symbol order with their counts as weights, then the internal nodes in merge order: merge `j` makes the node after
the leaves and the `j` earlier merges, of the two least entries in the queue, the one removed first as its left child;
children lie below parents; the root is the last (R92, R93, R95, R96, R97, R99). -/
def Obligations.BuildLaysOutTheArena : Prop :=
  ∀ s : State, s.cfg.wf = true → s.isIdle → s.freqValid = true → 2 ≤ s.positive.length →
    ∃ t, exec .build s = .next t ∧
      t.nodeCount.toNat = 2 * s.positive.length - 1 ∧ t.root.toNat = 2 * s.positive.length - 2 ∧
      (∀ (j x : Nat), s.positive[j]? = some x →
        t.nodeAt (BitVec.ofNat 10 j) = leafNode (BitVec.ofNat 9 x) ((s.freqAt x).setWidth 40)) ∧
      (∀ j : Nat, j + 1 < s.positive.length →
        t.IsMerge s.positive.length j (t.nodeAt (BitVec.ofNat 10 (s.positive.length + j)))) ∧
      (∀ i : Idx, s.positive.length ≤ i.toNat → i.toNat < t.nodeCount.toNat →
        (t.nodeAt i).leaf = false ∧ (t.nodeAt i).left.toNat < i.toNat ∧ (t.nodeAt i).right.toNat < i.toNat) ∧
      t.treeValid = true ∧ t.treeOrigin = .built ∧ t.codesValid = false ∧ t.freqValid = false ∧ t.done = true ∧
      t.isIdle ∧ t.pq = []

/-- Weights (R101, R102): after BUILD the root's weight is the sum of all counts, every internal node's is the sum of its
children's, both exact sums that do not wrap. -/
def Obligations.BuildAddsTheWeights : Prop :=
  ∀ s t : State, s.cfg.wf = true → s.isIdle → s.freqValid = true → exec .build s = .next t →
    (t.nodeAt t.root).weight.toNat = (s.counts.map BitVec.toNat).sum ∧
    (∀ i : Idx, i.toNat < t.nodeCount.toNat → (t.nodeAt i).leaf = false →
      (t.nodeAt i).weight.toNat = (t.nodeAt (t.nodeAt i).left).weight.toNat + (t.nodeAt (t.nodeAt i).right).weight.toNat)

/-- The tree of BUILD (R102): one leaf for each symbol with a positive count, and for no other symbol but the placeholder of the
degenerate case; the root is internal. -/
def Obligations.BuildMakesOneLeafPerSymbol : Prop :=
  ∀ s t : State, s.cfg.wf = true → s.isIdle → s.freqValid = true → exec .build s = .next t →
    ∃ tr, t.tree = some tr ∧ tr.isInternal = true ∧ tr.size = t.nodeCount.toNat ∧
      (2 ≤ s.positive.length → (tr.leaves.map BitVec.toNat).Perm s.positive) ∧
      (s.positive.length = 1 → tr.leaves = [eosSym, s.cfg.placeholderSym])

/-- BUILD is a function of the counts alone (R103): the same counts and parameters give the same arena content, whatever the
rest of the state. -/
def Obligations.BuildDependsOnTheCountsOnly : Prop :=
  ∀ s s' t t' : State, s.cfg = s'.cfg → s.cfg.wf = true → s.freq = s'.freq → s.isIdle → s'.isIdle →
    s.freqValid = true → s'.freqValid = true → exec .build s = .next t → exec .build s' = .next t' →
    t.nodeCount = t'.nodeCount ∧ t.root = t'.root ∧
    ∀ i : Idx, i.toNat < t.nodeCount.toNat → t.nodeAt i = t'.nodeAt i

/-- The frame of BUILD and GENCODES: no stream transaction, and nothing changes but the sequencer's registers, the tables the
command makes and its working registers (R92, R107). That the working registers it does not use, and storage behind a
cleared flag, keep their values is the model's choice (assumption 32; the spec says any value, U7, U13). -/
def Obligations.BuildAndGencodesFrame : Prop :=
  (∀ s t : State, exec .build s = .next t →
    t = { s with phase := t.phase, errCode := t.errCode, busy := t.busy, done := t.done, freqValid := t.freqValid,
                 treeValid := t.treeValid, treeOrigin := t.treeOrigin, codesValid := t.codesValid,
                 node := t.node, nodeCount := t.nodeCount, root := t.root, pq := t.pq,
                 work := { s.work with m := t.work.m, a := t.work.a, b := t.work.b, macroCmd := t.work.macroCmd } }) ∧
  (∀ s t : State, exec .gencodes s = .next t →
    t = { s with phase := t.phase, errCode := t.errCode, busy := t.busy, done := t.done, freqValid := t.freqValid,
                 treeValid := t.treeValid, codesValid := t.codesValid, codeLen := t.codeLen, codeBits := t.codeBits,
                 work := { s.work with pathLen := t.work.pathLen, pathBits := t.work.pathBits,
                                       macroCmd := t.work.macroCmd } })

/-! ## GENCODES -/

/-- GENCODES completes on a built tree and gives every symbol the path to its leaf, and no code to any other symbol; the tree
stays valid (R106, R107, R108). -/
def Obligations.GencodesRecordsThePaths : Prop :=
  ∀ (s : State) (tr : Tree), s.isIdle → s.treeValid = true → s.treeOrigin = .built → s.tree = some tr →
    tr.leaves.Nodup → (∀ x ∈ tr.leaves, x.toNat ≤ 256) →
    ∃ t, exec .gencodes s = .next t ∧
      (∀ x : Nat, x < alphabet → t.codeOf x = tr.codeOf (BitVec.ofNat 9 x) ∧
        (t.codeLenAt x).toNat = (tr.codeOf (BitVec.ofNat 9 x)).length ∧
        (t.codeBitsAt x).toNat < 2 ^ (t.codeLenAt x).toNat) ∧
      t.codesValid = true ∧ t.treeValid = true ∧ t.treeOrigin = .built ∧ t.freqValid = s.freqValid ∧ t.done = true ∧
      t.isIdle

/-- In every state of a run the codes of a valid code table are prefix-free (R19, R111), and the end-of-stream symbol has a
code (R133). -/
def Obligations.ValidCodesArePrefixFree : Prop :=
  ∀ s : State, s.runOk = true → s.codesValid = true →
    (∀ x y : Nat, x < alphabet → y < alphabet → x ≠ y → s.codeLenAt x ≠ 0#9 → s.codeLenAt y ≠ 0#9 →
      ¬ (s.codeOf x <+: s.codeOf y)) ∧
    s.codeLenAt 256 ≠ 0#9

/-- In every state of a run the code lengths of a valid code table fill the code space exactly (R112): the sum of
`2^(−code_len)` over the symbols with a code is 1. -/
def Obligations.ValidCodesAreComplete : Prop :=
  ∀ s : State, s.runOk = true → s.codesValid = true →
    (((List.range alphabet).filter fun x => decide (s.codeLenAt x ≠ 0#9)).map
      fun x => 2 ^ (256 - (s.codeLenAt x).toNat)).sum = 2 ^ 256

/-! ## The header -/

/-- WRHDR completes and appends the header of the tree, of either origin; only the sequencer, the sink and the stack change
(R115, R116). A header of a tree with `L` leaves has `11L − 1` bits (R50). -/
def Obligations.WrhdrWritesTheHeader : Prop :=
  (∀ (s : State) (tr : Tree), s.isIdle → s.sinkReady → s.treeValid = true → s.tree = some tr → tr.size ≤ 1023 →
    ∃ t, exec .wrhdr s = .next t ∧
      t = { s with done := true, snk := { s.snk with bits := s.snk.bits ++ tr.header }, trace := t.trace,
                   work := { s.work with stk := t.work.stk, macroCmd := t.work.macroCmd } }) ∧
  (∀ tr : Tree, tr.size + 1 = 2 * tr.leaves.length ∧ tr.header.length + 1 = 11 * tr.leaves.length)

/-- RDHDR completes on a source that continues with the header of a tree whose root is internal and that fits the arena: the
tree read is that tree, exactly its bits are consumed, weights are 0, the sink is untouched (R117, R122, R128). -/
def Obligations.RdhdrReadsTheHeader : Prop :=
  ∀ (s : State) (tr : Tree) (more : List Bool), s.cfg.wf = true → s.isIdle → s.sourceReady →
    s.src.rest = tr.header ++ more → tr.isInternal = true → tr.size ≤ s.cfg.nodeCap →
    ∃ t, exec .rdhdr s = .next t ∧ t.tree = some tr ∧ t.root = 0#10 ∧ t.nodeCount.toNat = tr.size ∧
      (∀ i : Idx, i.toNat < t.nodeCount.toNat → (t.nodeAt i).weight = 0#40) ∧
      t.src = { s.src with pos := s.src.pos + tr.header.length } ∧ t.snk = s.snk ∧
      t.treeValid = true ∧ t.treeOrigin = .parsed ∧ t.codesValid = false ∧ t.freqValid = s.freqValid ∧
      t.done = true ∧ t.isIdle

/-- Whenever RDHDR succeeds, WRHDR of its tree would write exactly the bits it consumed (R128, converse). -/
def Obligations.RdhdrConsumesExactlyAHeader : Prop :=
  ∀ s t : State, s.cfg.wf = true → s.isIdle → exec .rdhdr s = .next t → t.phase = .idle →
    ∃ tr, t.tree = some tr ∧ tr.isInternal = true ∧ s.src.rest = tr.header ++ t.src.rest

/-- The errors of RDHDR (R124, R125, R127), the sink untouched. A source that ends inside a header gives `TruncatedHeader`, where
the header has at most `NODE_CAP` nodes, or where it has more and the source ends before the flag bit of node number
`NODE_CAP`. A header of more nodes gives `TreeOverflow` once that flag bit is there, which is the last bit consumed,
whether the header goes on or the source ends in it. A header that is one leaf gives `BadTree` after its ten bits. -/
def Obligations.RdhdrErrors : Prop :=
  ∀ s : State, s.cfg.wf = true → s.isIdle → s.sourceReady →
    (∀ (tr : Tree) (more : List Bool), (tr.size ≤ s.cfg.nodeCap ∨ s.src.rest.length ≤ tr.bitsBefore s.cfg.nodeCap) →
      tr.header = s.src.rest ++ more → more ≠ [] →
      ∃ t, exec .rdhdr s = .next t ∧ t.errCode = some .truncatedHeader ∧ t.phase = .error ∧
        t.src.pos = s.src.bits.length ∧ t.snk = s.snk) ∧
    (∀ (tr : Tree) (more : List Bool), s.cfg.nodeCap < tr.size →
      (s.src.rest = tr.header ++ more ∨
        (tr.header = s.src.rest ++ more ∧ tr.bitsBefore s.cfg.nodeCap < s.src.rest.length)) →
      ∃ t, exec .rdhdr s = .next t ∧ t.errCode = some .treeOverflow ∧ t.phase = .error ∧
        t.src.pos = s.src.pos + tr.bitsBefore s.cfg.nodeCap + 1 ∧ t.snk = s.snk) ∧
    (∀ (sym : Sym) (more : List Bool), s.src.rest = (Tree.leaf sym).header ++ more →
      ∃ t, exec .rdhdr s = .next t ∧ t.errCode = some .badTree ∧ t.phase = .error ∧
        t.src.pos = s.src.pos + 10 ∧ t.snk = s.snk)

/-- The frames of ANALYZE, RDMAGIC and RDHDR, which write nothing to the sink: a next state differs from the state before in the
sequencer's registers, the table the command makes, the read position and the registers that reading uses, and in nothing
else (R83, R85, R122, R148). That the working registers of other commands, the cursor and storage behind a cleared flag
keep their values is the model's choice (assumption 32; the spec says any value, U7, U13). -/
def Obligations.ReadingFrames : Prop :=
  (∀ s t : State, exec .analyze s = .next t →
    t = { s with phase := t.phase, errCode := t.errCode, busy := t.busy, done := t.done, freqValid := t.freqValid,
                 treeValid := t.treeValid, codesValid := t.codesValid, freq := t.freq,
                 src := { s.src with pos := t.src.pos, answers := t.src.answers },
                 work := { s.work with w := t.work.w, eos := t.work.eos, macroCmd := t.work.macroCmd },
                 trace := t.trace, freeCount := t.freeCount }) ∧
  (∀ s t : State, exec .rdmagic s = .next t →
    t = { s with phase := t.phase, errCode := t.errCode, busy := t.busy, done := t.done, freqValid := t.freqValid,
                 treeValid := t.treeValid, codesValid := t.codesValid,
                 src := { s.src with pos := t.src.pos, answers := t.src.answers },
                 work := { s.work with w := t.work.w, eos := t.work.eos, macroCmd := t.work.macroCmd },
                 trace := t.trace, freeCount := t.freeCount }) ∧
  (∀ s t : State, exec .rdhdr s = .next t →
    t = { s with phase := t.phase, errCode := t.errCode, busy := t.busy, done := t.done, freqValid := t.freqValid,
                 treeValid := t.treeValid, treeOrigin := t.treeOrigin, codesValid := t.codesValid,
                 node := t.node, nodeCount := t.nodeCount, root := t.root,
                 src := { s.src with pos := t.src.pos, answers := t.src.answers },
                 work := { s.work with w := t.work.w, eos := t.work.eos, stk := t.work.stk,
                                       macroCmd := t.work.macroCmd },
                 trace := t.trace, freeCount := t.freeCount })

/-- The frames of WRMAGIC, WRHDR and CLOSE, which read nothing from the source: a next state differs in the sequencer's registers,
the sink and the working registers used, and in nothing else; only CLOSE closes the sink (R115, R147, R149). That the
working registers of other commands, the cursor and storage behind a cleared flag keep their values is the model's choice
(assumption 32; the spec says any value, U7, U13). -/
def Obligations.WritingFrames : Prop :=
  (∀ s t : State, exec .wrmagic s = .next t →
    t = { s with phase := t.phase, busy := t.busy, done := t.done,
                 snk := { s.snk with bits := t.snk.bits, answers := t.snk.answers },
                 work := { s.work with macroCmd := t.work.macroCmd }, trace := t.trace }) ∧
  (∀ s t : State, exec .wrhdr s = .next t →
    t = { s with phase := t.phase, errCode := t.errCode, busy := t.busy, done := t.done, freqValid := t.freqValid,
                 treeValid := t.treeValid, codesValid := t.codesValid,
                 snk := { s.snk with bits := t.snk.bits, answers := t.snk.answers },
                 work := { s.work with stk := t.work.stk, macroCmd := t.work.macroCmd }, trace := t.trace }) ∧
  (∀ s t : State, exec .close s = .next t →
    t = { s with phase := t.phase, busy := t.busy, done := t.done, snk := t.snk,
                 work := { s.work with macroCmd := t.work.macroCmd }, trace := t.trace })

/-- RDHDR is the execution of its tokens one by one, to the same outcome, success, error or stall; so is WRHDR of a valid tree.
The order of the tokens is that of R114 and R123. That tokens can run one a step is the model's choice (assumption 8), and
so is what the stack of WRHDR holds (assumption 27). -/
def Obligations.HeaderCommandsAreTheirTokens : Prop :=
  (∀ s : State, s.cfg.wf = true → s.isIdle → s.pending = [] →
    ∃ n, Sys2Proof.core.run n (rdhdrStart (s.start noMacro)) = exec .rdhdr s) ∧
  (∀ (s : State) (tr : Tree), s.isIdle → s.pending = [] → s.treeValid = true → s.tree = some tr → tr.size ≤ 1023 →
    ∃ n, Sys2Proof.core.run n (wrhdrStart (s.start noMacro)) = exec .wrhdr s)

/-- The header tokens complete, one a step (the model's choice, assumption 8). `HDR.NODE`: read, it opens the next arena entry as an
internal node (R123); written, it appends the bit 0 (R115) and leaves the two subtrees on the stack (what the stack of WRHDR
holds is the model's choice, assumption 27). `HDR.LEAF`: read below an internal node that has no left child yet, it makes
the next arena entry a leaf of its symbol (R123) and at once that node's left child (when the field is written is deduced,
assumption 18); written before other subtrees, it appends the bit 1 and the nine bits of its symbol (R115). -/
def Obligations.HeaderTokensComplete : Prop :=
  (∀ (s : State) (bits : List Bool), s.phase = .rdhdr → s.sourceReady → s.src.rest = false :: bits →
    s.nodeCount.toNat < s.cfg.nodeCap → s.cfg.nodeCap < 1024 →
    ∃ t, exec .hdrNode s = .next t ∧
      t.nodeAt s.nodeCount = { leaf := false, sym := 0#9, weight := 0#40, left := 0#10, right := 0#10 } ∧
      t.nodeCount.toNat = s.nodeCount.toNat + 1 ∧ (∀ i, i ≠ s.nodeCount → t.nodeAt i = s.nodeAt i) ∧
      t.work.stk = { idx := s.nodeCount, leftDone := false } :: s.work.stk ∧
      t = { s with node := t.node, nodeCount := t.nodeCount, src := { s.src with pos := s.src.pos + 1 },
                   work := { s.work with w := t.work.w, eos := t.work.eos, stk := t.work.stk }, trace := t.trace }) ∧
  (∀ (s : State) (e : StkEntry) (stk : List StkEntry), s.phase = .wrhdr → s.sinkReady → s.work.stk = e :: stk →
    exec .hdrNode s =
      .next { s with snk := { s.snk with bits := s.snk.bits ++ [false] }, trace := s.trace ++ [.sinkWrite 1 0#32],
                     work := { s.work with stk := pendingSubtree (s.nodeAt e.idx).left ::
                                                  pendingSubtree (s.nodeAt e.idx).right :: stk } }) ∧
  (∀ (s : State) (sym : Sym) (bits : List Bool) (p : Idx) (stk : List StkEntry), s.phase = .rdhdr → s.sourceReady →
    s.src.rest = true :: msbBits 9 sym ++ bits → s.nodeCount.toNat < s.cfg.nodeCap → s.cfg.nodeCap < 1024 →
    s.work.stk = { idx := p, leftDone := false } :: stk → p ≠ s.nodeCount →
    ∃ t, exec (.hdrLeaf sym) s = .next t ∧
      t.nodeAt s.nodeCount = { leaf := true, sym := sym, weight := 0#40, left := 0#10, right := 0#10 } ∧
      t.nodeAt p = { s.nodeAt p with left := s.nodeCount } ∧
      t.nodeCount.toNat = s.nodeCount.toNat + 1 ∧ (∀ i, i ≠ s.nodeCount → i ≠ p → t.nodeAt i = s.nodeAt i) ∧
      t.work.stk = { idx := p, leftDone := true } :: stk ∧
      t = { s with node := t.node, nodeCount := t.nodeCount, src := { s.src with pos := s.src.pos + 10 },
                   work := { s.work with w := t.work.w, eos := t.work.eos, stk := t.work.stk }, trace := t.trace }) ∧
  (∀ (s : State) (sym : Sym) (e e' : StkEntry) (stk : List StkEntry), s.phase = .wrhdr → s.sinkReady →
    s.work.stk = e :: e' :: stk →
    exec (.hdrLeaf sym) s =
      .next { s with snk := { s.snk with bits := s.snk.bits ++ true :: msbBits 9 sym },
                     trace := s.trace ++ [.sinkWrite 1 1#32, .sinkWrite 9 (sym.setWidth 32)],
                     work := { s.work with stk := e' :: stk } })

/-! ## The body -/

/-- ENCBODY completes where every word has a code: the codes in input order, then the end-of-stream code once; the source is
exhausted, tree and codes are discarded (R131, R132, R133, R135). -/
def Obligations.EncbodyWritesTheCodes : Prop :=
  ∀ s : State, s.isIdle → s.sourceReady → s.sinkReady → s.codesValid = true →
    (∀ x ∈ s.words, s.codeLenAt x.toNat ≠ 0#9) →
    ∃ t, exec .encbody s = .next t ∧
      t.snk = { s.snk with bits := s.snk.bits ++ s.words.flatMap (fun x => s.codeOf x.toNat) ++ s.codeOf 256 } ∧
      t.src = { s.src with pos := s.src.bits.length } ∧
      t.codesValid = false ∧ t.treeValid = false ∧ t.freqValid = s.freqValid ∧ t.done = true ∧ t.isIdle

/-- A word without a code ends ENCBODY with `NoCode`: what was written before stays, nothing is written for the word, the sink
is not closed (R134). -/
def Obligations.EncbodyStopsAtAWordWithoutACode : Prop :=
  ∀ (s : State) (before after : List (BitVec 8)) (x : BitVec 8), s.isIdle → s.sourceReady → s.sinkReady →
    s.codesValid = true → s.words = before ++ x :: after → s.codeLenAt x.toNat = 0#9 →
    (∀ y ∈ before, s.codeLenAt y.toNat ≠ 0#9) →
    ∃ t, exec .encbody s = .next t ∧ t.errCode = some .noCode ∧ t.phase = .error ∧
      t.snk = { s.snk with bits := s.snk.bits ++ before.flatMap (fun y => s.codeOf y.toNat) } ∧
      t.src.pos = s.src.pos + 8 * (before.length + 1)

/-- DECBODY completes where the source holds a body that ends: the bytes it decodes to are written, nothing after the terminator
is read, the sink is not closed, the tree is discarded (R139, R140, R142, R144). -/
def Obligations.DecbodyWritesTheDecodedBytes : Prop :=
  ∀ (s : State) (tr : Tree) (out : List (BitVec 8)) (more : List Bool), s.isIdle → s.sourceReady → s.sinkReady →
    s.treeValid = true → s.tree = some tr → tr.isInternal = true → tr.Decodes s.src.rest out more →
    ∃ t, exec .decbody s = .next t ∧
      t.snk = { s.snk with bits := s.snk.bits ++ bitsOfBytes out } ∧
      t.src.bits = s.src.bits ∧ t.src.rest = more ∧
      t.treeValid = false ∧ t.codesValid = false ∧ t.freqValid = s.freqValid ∧ t.done = true ∧ t.isIdle

/-- A source that ends before an end-of-stream symbol ends DECBODY with `TruncatedBody`: the bytes decoded so far stay, the sink
is not closed; and every finite source either decodes or runs out (R141). -/
def Obligations.DecbodyEndsOrRunsOut : Prop :=
  (∀ (s : State) (tr : Tree) (out : List (BitVec 8)), s.isIdle → s.sourceReady → s.sinkReady →
    s.treeValid = true → s.tree = some tr → tr.isInternal = true → tr.RunsOut s.src.rest out →
    ∃ t, exec .decbody s = .next t ∧ t.errCode = some .truncatedBody ∧ t.phase = .error ∧
      t.snk = { s.snk with bits := s.snk.bits ++ bitsOfBytes out } ∧ t.src.pos = s.src.bits.length) ∧
  (∀ (tr : Tree) (bits : List Bool), tr.isInternal = true →
    (∃ out more, tr.Decodes bits out more) ∨ ∃ out, tr.RunsOut bits out)

/-- The frames of ENCBODY and DECBODY: no table changes; the sequencer's registers, the read position, the sink, the working
registers that reading uses and, for DECBODY, the cursor may (R133, R140). That the working registers of other commands,
and storage behind a cleared flag, keep their values is the model's choice (assumption 32; the spec says any value, U7, U13). -/
def Obligations.BodyFrames : Prop :=
  (∀ s t : State, exec .encbody s = .next t →
    t = { s with phase := t.phase, errCode := t.errCode, busy := t.busy, done := t.done, freqValid := t.freqValid,
                 treeValid := t.treeValid, codesValid := t.codesValid,
                 src := { s.src with pos := t.src.pos, answers := t.src.answers },
                 snk := { s.snk with bits := t.snk.bits, answers := t.snk.answers },
                 work := { s.work with w := t.work.w, eos := t.work.eos, macroCmd := t.work.macroCmd },
                 trace := t.trace, freeCount := t.freeCount }) ∧
  (∀ s t : State, exec .decbody s = .next t →
    t = { s with phase := t.phase, errCode := t.errCode, busy := t.busy, done := t.done, freqValid := t.freqValid,
                 treeValid := t.treeValid, codesValid := t.codesValid, cursor := t.cursor,
                 src := { s.src with pos := t.src.pos, answers := t.src.answers },
                 snk := { s.snk with bits := t.snk.bits, answers := t.snk.answers },
                 work := { s.work with w := t.work.w, eos := t.work.eos, macroCmd := t.work.macroCmd },
                 trace := t.trace, freeCount := t.freeCount })

/-! ## The sequencer commands -/

/-- WRMAGIC completes: the 32 bits of `MAGIC`, most significant first, one transaction, nothing else but `done` (R71, R147). -/
def Obligations.WrmagicWritesTheMagic : Prop :=
  ∀ s : State, s.isIdle → s.sinkReady →
    ∃ t, exec .wrmagic s = .next t ∧
      t = { s with done := true, snk := { s.snk with bits := s.snk.bits ++ msbBits 32 s.cfg.magic },
                   trace := s.trace ++ [.sinkWrite 32 s.cfg.magic],
                   work := { s.work with macroCmd := t.work.macroCmd } }

/-- RDMAGIC (R148, R172): it completes on `MAGIC`, 32 bits further on; every other 32-bit value and a source with fewer than 32
bits left is `BadMagic`; the sink receives nothing. -/
def Obligations.RdmagicAcceptsOnlyTheMagic : Prop :=
  ∀ s : State, s.isIdle → s.sourceReady →
    (∀ more, s.src.rest = msbBits 32 s.cfg.magic ++ more →
      ∃ t, exec .rdmagic s = .next t ∧ t.isIdle ∧ t.done = true ∧ t.errCode = s.errCode ∧
        t.src = { s.src with pos := s.src.pos + 32 } ∧ t.snk = s.snk ∧ t.freqValid = s.freqValid ∧
        t.treeValid = s.treeValid ∧ t.codesValid = s.codesValid) ∧
    (∀ (v : BitVec 32) (more : List Bool), v ≠ s.cfg.magic → s.src.rest = msbBits 32 v ++ more →
      ∃ t, exec .rdmagic s = .next t ∧ t.errCode = some .badMagic ∧ t.phase = .error ∧
        t.src.pos = s.src.pos + 32 ∧ t.snk = s.snk) ∧
    (s.src.rest.length < 32 →
      ∃ t, exec .rdmagic s = .next t ∧ t.errCode = some .badMagic ∧ t.phase = .error ∧
        t.src.pos = s.src.bits.length ∧ t.snk = s.snk)

/-- The magic field as an instruction completes, in a command of its own: read and accepted in phase RDMAGIC (R148), written in
phase WRMAGIC (R147); nothing else changes. In a phase that handles no such token, each of the three tokens is refused by
name. Inside a macro command a token does what it does in a command of its own, and where that ends, the rest of the
macro command follows (R73, R151, R152). That tokens run one a step, the refusal, and the codes of the register `macro` are
the model's choices (assumptions 8, 9, 4). -/
def Obligations.MagicFieldCompletes : Prop :=
  (∀ (s : State) (more : List Bool), s.phase = .rdmagic → s.work.macroCmd = noMacro → s.sourceReady →
    s.src.rest = msbBits 32 s.cfg.magic ++ more →
    ∃ t, exec .fileMagic s = .next t ∧
      t = { s with phase := .idle, busy := false, done := true, src := { s.src with pos := s.src.pos + 32 },
                   work := { s.work with w := s.cfg.magic, eos := false }, trace := t.trace }) ∧
  (∀ s : State, s.phase = .wrmagic → s.work.macroCmd = noMacro → s.sinkReady →
    exec .fileMagic s =
      .next { s with phase := .idle, busy := false, done := true,
                     snk := { s.snk with bits := s.snk.bits ++ msbBits 32 s.cfg.magic },
                     trace := s.trace ++ [.sinkWrite 32 s.cfg.magic] }) ∧
  (∀ s : State,
    (s.phase ≠ .rdmagic → s.phase ≠ .wrmagic → exec .fileMagic s = .refused .tokenOutsidePhase) ∧
    (s.phase ≠ .rdhdr → s.phase ≠ .wrhdr →
      exec .hdrNode s = .refused .tokenOutsidePhase ∧ ∀ sym, exec (.hdrLeaf sym) s = .refused .tokenOutsidePhase)) ∧
  (∀ (i : Instr) (is : List Instr) (s : State), s.busy = true → s.done = false →
    (i = .fileMagic ∧ s.phase = .rdmagic ∧ s.work.macroCmd = decompressMacro ∧ is = [.rdhdr, .decbody, .close] ∨
      i = .fileMagic ∧ s.phase = .wrmagic ∧ s.work.macroCmd = compressMacro ∧ s.treeValid = true ∧ s.codesValid = true ∧
        is = [.wrhdr, .encbody, .close] ∨
      (i = .hdrNode ∨ ∃ sym, i = .hdrLeaf sym) ∧
        (s.phase = .rdhdr ∧ s.work.macroCmd = decompressMacro ∧ is = [.decbody, .close] ∨
          s.phase = .wrhdr ∧ s.work.macroCmd = compressMacro ∧ s.codesValid = true ∧ is = [.encbody, .close])) →
    mapNext State.forgetMacro (exec i s) = mapNext State.forgetMacro (thenCommands is (exec i s.forgetMacro)))

/-- COMPRESS behaves as its seven commands issued one after another with a stop at the first that does not complete, in
everything but the register `macro` (R73, R151). -/
def Obligations.CompressIsItsExpansion : Prop :=
  ∀ s : State, s.cfg.wf = true → s.isIdle →
    mapNext State.forgetMacro (exec .compress s) =
      mapNext State.forgetMacro
        (runCommands [.analyze, .build, .gencodes, .wrmagic, .wrhdr, .encbody, .close] s)

/-- DECOMPRESS behaves as its four commands issued one after another with a stop at the first that does not complete, in
everything but the register `macro` (R73, R152). -/
def Obligations.DecompressIsItsExpansion : Prop :=
  ∀ s : State, s.cfg.wf = true → s.isIdle →
    mapNext State.forgetMacro (exec .decompress s) =
      mapNext State.forgetMacro (runCommands [.rdmagic, .rdhdr, .decbody, .close] s)

/-- The frames of COMPRESS and DECOMPRESS: the configuration, the selector, the source's content, the host port and, in each, the
tables that none of its steps makes are unchanged (R151, R152). That the cursor, the working registers that no step uses
and storage behind a cleared flag keep their values is the model's choice (assumption 32; the spec says any value, U7, U13). -/
def Obligations.MacroCommandFrames : Prop :=
  (∀ s t : State, exec .compress s = .next t →
    t.cfg = s.cfg ∧ t.sel = s.sel ∧ t.cursor = s.cursor ∧ t.src.bits = s.src.bits ∧ t.pending = s.pending ∧
    t.rdata = s.rdata) ∧
  (∀ s t : State, exec .decompress s = .next t →
    t.cfg = s.cfg ∧ t.sel = s.sel ∧ t.src.bits = s.src.bits ∧ t.pending = s.pending ∧ t.rdata = s.rdata ∧
    t.freq = s.freq ∧ t.codeLen = s.codeLen ∧ t.codeBits = s.codeBits ∧ t.pq = s.pq ∧ t.work.m = s.work.m ∧
    t.work.a = s.work.a ∧ t.work.b = s.work.b ∧ t.work.pathBits = s.work.pathBits ∧ t.work.pathLen = s.work.pathLen)

/-- COMPRESS completes on every source that stands at its start and overflows no counter: the sink receives magic, header and
body of the tree that ANALYZE and BUILD make of the words, padded, and is closed; every valid flag is 0. The leaves of that
tree are the words' symbols and the end-of-stream symbol, each once, and, for no words, the placeholder (R50, R98, R151).
That the arena still holds the tree behind its cleared flag is the model's choice (assumption 32). -/
def Obligations.CompressWritesTheFile : Prop :=
  ∀ s : State, s.cfg.wf = true → s.isIdle → s.sourceReady → s.sinkReady → s.src.pos = 0 →
    (∀ x, s.words.count x ≤ s.cfg.cmax) →
    ∃ t a b tr n, exec .compress s = .next t ∧ exec .analyze s = .next a ∧ exec .build a = .next b ∧
      b.treeValid = true ∧ b.tree = some tr ∧ t.tree = some tr ∧ tr.isInternal = true ∧
      (∀ x ∈ s.words, x.setWidth 9 ∈ tr.leaves) ∧ eosSym ∈ tr.leaves ∧ tr.leaves.Nodup ∧
      (∀ y ∈ tr.leaves, y = eosSym ∨ (∃ x ∈ s.words, y = x.setWidth 9) ∨ (s.words = [] ∧ y = s.cfg.placeholderSym)) ∧
      t.snk.bits = s.snk.bits ++ fileBits s.cfg.magic tr s.words ++ List.replicate n s.cfg.padBit ∧ n < 8 ∧
      t.snk.bits.length % 8 = 0 ∧ t.snk.closed = true ∧ t.src = { s.src with pos := s.src.bits.length } ∧
      t.freqValid = false ∧ t.treeValid = false ∧ t.codesValid = false ∧ t.done = true ∧ t.isIdle ∧ t.errCode = s.errCode

/-- DECOMPRESS completes on every well-formed stream: the sink receives the bytes the body decodes to, is padded and closed
(R50, R152). -/
def Obligations.DecompressReadsAFile : Prop :=
  ∀ (s : State) (tr : Tree) (body more : List Bool) (out : List (BitVec 8)), s.cfg.wf = true → s.isIdle →
    s.sourceReady → s.sinkReady → s.src.rest = msbBits 32 s.cfg.magic ++ tr.header ++ body →
    tr.isInternal = true → tr.size ≤ s.cfg.nodeCap → tr.Decodes body out more →
    ∃ t n, exec .decompress s = .next t ∧
      t.snk.bits = s.snk.bits ++ bitsOfBytes out ++ List.replicate n s.cfg.padBit ∧ n < 8 ∧
      t.snk.bits.length % 8 = 0 ∧ t.snk.closed = true ∧
      t.treeValid = false ∧ t.codesValid = false ∧ t.freqValid = s.freqValid ∧ t.done = true ∧ t.isIdle

/-- The round trip: for every byte sequence, the empty one included, DECOMPRESS of what COMPRESS wrote gives the bytes back, bit
for bit, and closes its sink; the two COREs share only the magic (R135, R145, R152). -/
def Obligations.RoundTrip : Prop :=
  ∀ (xs : List (BitVec 8)) (s t d : State), s.cfg.wf = true → d.cfg.wf = true → d.cfg.magic = s.cfg.magic →
    s.isIdle → s.sourceReady → s.sinkReady → s.src.bits = bitsOfBytes xs → s.src.pos = 0 → s.snk.bits = [] →
    (∀ x, xs.count x ≤ s.cfg.cmax) → exec .compress s = .next t →
    d.isIdle → d.sourceReady → d.sinkReady → d.src.bits = t.snk.bits → d.src.pos = 0 → d.snk.bits = [] →
    ∃ u, exec .decompress d = .next u ∧ u.snk.bits = bitsOfBytes xs ∧ u.snk.closed = true ∧ u.errCode = d.errCode ∧
      u.done = true

/-- Corruption (R179): where the first 32 bits are not the magic, DECOMPRESS fails with `BadMagic` and issues no sink transaction
at all; where the header ends early it fails with `TruncatedHeader`; where the body ends early, with `TruncatedBody` after
the bytes decoded so far. -/
def Obligations.DecompressErrors : Prop :=
  ∀ s : State, s.cfg.wf = true → s.isIdle → s.sourceReady → s.sinkReady →
    (∀ (v : BitVec 32) (more : List Bool), v ≠ s.cfg.magic → s.src.rest = msbBits 32 v ++ more →
      ∃ t, exec .decompress s = .next t ∧ t.errCode = some .badMagic ∧ t.phase = .error ∧ t.snk = s.snk) ∧
    (∀ (tr : Tree) (cut more : List Bool), tr.size ≤ s.cfg.nodeCap → tr.header = cut ++ more → more ≠ [] →
      s.src.rest = msbBits 32 s.cfg.magic ++ cut →
      ∃ t, exec .decompress s = .next t ∧ t.errCode = some .truncatedHeader ∧ t.phase = .error ∧ t.snk = s.snk) ∧
    (∀ (tr : Tree) (body : List Bool) (out : List (BitVec 8)), tr.isInternal = true → tr.size ≤ s.cfg.nodeCap →
      s.src.rest = msbBits 32 s.cfg.magic ++ tr.header ++ body → tr.RunsOut body out →
      ∃ t, exec .decompress s = .next t ∧ t.errCode = some .truncatedBody ∧ t.phase = .error ∧
        t.snk = { s.snk with bits := s.snk.bits ++ bitsOfBytes out })
end

