-- ==== Sys2Proof/Laws/State.lean ====
section
/-!
SUPPORT. One lemma for each field of the state after each update, true by rfl, so that no proof unfolds a record update.
-/
namespace Sys2Proof.Machine

/-! ## State.setFreq -/

@[simp] theorem State.setFreq_cfg (s : State) (x : BitVec 8) (v : Count) : (s.setFreq x v).cfg = s.cfg := rfl
@[simp] theorem State.setFreq_phase (s : State) (x : BitVec 8) (v : Count) : (s.setFreq x v).phase = s.phase := rfl
@[simp] theorem State.setFreq_errCode (s : State) (x : BitVec 8) (v : Count) : (s.setFreq x v).errCode = s.errCode := rfl
@[simp] theorem State.setFreq_busy (s : State) (x : BitVec 8) (v : Count) : (s.setFreq x v).busy = s.busy := rfl
@[simp] theorem State.setFreq_done (s : State) (x : BitVec 8) (v : Count) : (s.setFreq x v).done = s.done := rfl
@[simp] theorem State.setFreq_freqValid (s : State) (x : BitVec 8) (v : Count) : (s.setFreq x v).freqValid = s.freqValid := rfl
@[simp] theorem State.setFreq_treeValid (s : State) (x : BitVec 8) (v : Count) : (s.setFreq x v).treeValid = s.treeValid := rfl
@[simp] theorem State.setFreq_treeOrigin (s : State) (x : BitVec 8) (v : Count) : (s.setFreq x v).treeOrigin = s.treeOrigin := rfl
@[simp] theorem State.setFreq_codesValid (s : State) (x : BitVec 8) (v : Count) : (s.setFreq x v).codesValid = s.codesValid := rfl
@[simp] theorem State.setFreq_freq (s : State) (x : BitVec 8) (v : Count) : (s.setFreq x v).freq = s.freq.set x.toNat v := rfl
@[simp] theorem State.setFreq_node (s : State) (x : BitVec 8) (v : Count) : (s.setFreq x v).node = s.node := rfl
@[simp] theorem State.setFreq_nodeCount (s : State) (x : BitVec 8) (v : Count) : (s.setFreq x v).nodeCount = s.nodeCount := rfl
@[simp] theorem State.setFreq_root (s : State) (x : BitVec 8) (v : Count) : (s.setFreq x v).root = s.root := rfl
@[simp] theorem State.setFreq_pq (s : State) (x : BitVec 8) (v : Count) : (s.setFreq x v).pq = s.pq := rfl
@[simp] theorem State.setFreq_codeLen (s : State) (x : BitVec 8) (v : Count) : (s.setFreq x v).codeLen = s.codeLen := rfl
@[simp] theorem State.setFreq_codeBits (s : State) (x : BitVec 8) (v : Count) : (s.setFreq x v).codeBits = s.codeBits := rfl
@[simp] theorem State.setFreq_cursor (s : State) (x : BitVec 8) (v : Count) : (s.setFreq x v).cursor = s.cursor := rfl
@[simp] theorem State.setFreq_sel (s : State) (x : BitVec 8) (v : Count) : (s.setFreq x v).sel = s.sel := rfl
@[simp] theorem State.setFreq_work (s : State) (x : BitVec 8) (v : Count) : (s.setFreq x v).work = s.work := rfl
@[simp] theorem State.setFreq_src (s : State) (x : BitVec 8) (v : Count) : (s.setFreq x v).src = s.src := rfl
@[simp] theorem State.setFreq_snk (s : State) (x : BitVec 8) (v : Count) : (s.setFreq x v).snk = s.snk := rfl
@[simp] theorem State.setFreq_trace (s : State) (x : BitVec 8) (v : Count) : (s.setFreq x v).trace = s.trace := rfl
@[simp] theorem State.setFreq_pending (s : State) (x : BitVec 8) (v : Count) : (s.setFreq x v).pending = s.pending := rfl
@[simp] theorem State.setFreq_rdata (s : State) (x : BitVec 8) (v : Count) : (s.setFreq x v).rdata = s.rdata := rfl
@[simp] theorem State.setFreq_freeCount (s : State) (x : BitVec 8) (v : Count) : (s.setFreq x v).freeCount = s.freeCount := rfl
@[simp] theorem State.setFreq_nodeAt (s : State) (x : BitVec 8) (v : Count) (j : Idx) : (s.setFreq x v).nodeAt j = s.nodeAt j := rfl
@[simp] theorem State.setFreq_codeLenAt (s : State) (x : BitVec 8) (v : Count) (j : Nat) : (s.setFreq x v).codeLenAt j = s.codeLenAt j := rfl
@[simp] theorem State.setFreq_codeBitsAt (s : State) (x : BitVec 8) (v : Count) (j : Nat) : (s.setFreq x v).codeBitsAt j = s.codeBitsAt j := rfl
@[simp] theorem State.setFreq_codeOf (s : State) (x : BitVec 8) (v : Count) (j : Nat) : (s.setFreq x v).codeOf j = s.codeOf j := rfl

/-! ## State.setNode -/

@[simp] theorem State.setNode_cfg (s : State) (i : Idx) (n : Node) : (s.setNode i n).cfg = s.cfg := rfl
@[simp] theorem State.setNode_phase (s : State) (i : Idx) (n : Node) : (s.setNode i n).phase = s.phase := rfl
@[simp] theorem State.setNode_errCode (s : State) (i : Idx) (n : Node) : (s.setNode i n).errCode = s.errCode := rfl
@[simp] theorem State.setNode_busy (s : State) (i : Idx) (n : Node) : (s.setNode i n).busy = s.busy := rfl
@[simp] theorem State.setNode_done (s : State) (i : Idx) (n : Node) : (s.setNode i n).done = s.done := rfl
@[simp] theorem State.setNode_freqValid (s : State) (i : Idx) (n : Node) : (s.setNode i n).freqValid = s.freqValid := rfl
@[simp] theorem State.setNode_treeValid (s : State) (i : Idx) (n : Node) : (s.setNode i n).treeValid = s.treeValid := rfl
@[simp] theorem State.setNode_treeOrigin (s : State) (i : Idx) (n : Node) : (s.setNode i n).treeOrigin = s.treeOrigin := rfl
@[simp] theorem State.setNode_codesValid (s : State) (i : Idx) (n : Node) : (s.setNode i n).codesValid = s.codesValid := rfl
@[simp] theorem State.setNode_freq (s : State) (i : Idx) (n : Node) : (s.setNode i n).freq = s.freq := rfl
@[simp] theorem State.setNode_node (s : State) (i : Idx) (n : Node) : (s.setNode i n).node = s.node.set i.toNat n := rfl
@[simp] theorem State.setNode_nodeCount (s : State) (i : Idx) (n : Node) : (s.setNode i n).nodeCount = s.nodeCount := rfl
@[simp] theorem State.setNode_root (s : State) (i : Idx) (n : Node) : (s.setNode i n).root = s.root := rfl
@[simp] theorem State.setNode_pq (s : State) (i : Idx) (n : Node) : (s.setNode i n).pq = s.pq := rfl
@[simp] theorem State.setNode_codeLen (s : State) (i : Idx) (n : Node) : (s.setNode i n).codeLen = s.codeLen := rfl
@[simp] theorem State.setNode_codeBits (s : State) (i : Idx) (n : Node) : (s.setNode i n).codeBits = s.codeBits := rfl
@[simp] theorem State.setNode_cursor (s : State) (i : Idx) (n : Node) : (s.setNode i n).cursor = s.cursor := rfl
@[simp] theorem State.setNode_sel (s : State) (i : Idx) (n : Node) : (s.setNode i n).sel = s.sel := rfl
@[simp] theorem State.setNode_work (s : State) (i : Idx) (n : Node) : (s.setNode i n).work = s.work := rfl
@[simp] theorem State.setNode_src (s : State) (i : Idx) (n : Node) : (s.setNode i n).src = s.src := rfl
@[simp] theorem State.setNode_snk (s : State) (i : Idx) (n : Node) : (s.setNode i n).snk = s.snk := rfl
@[simp] theorem State.setNode_trace (s : State) (i : Idx) (n : Node) : (s.setNode i n).trace = s.trace := rfl
@[simp] theorem State.setNode_pending (s : State) (i : Idx) (n : Node) : (s.setNode i n).pending = s.pending := rfl
@[simp] theorem State.setNode_rdata (s : State) (i : Idx) (n : Node) : (s.setNode i n).rdata = s.rdata := rfl
@[simp] theorem State.setNode_freeCount (s : State) (i : Idx) (n : Node) : (s.setNode i n).freeCount = s.freeCount := rfl
@[simp] theorem State.setNode_freqAt (s : State) (i : Idx) (n : Node) (j : Nat) : (s.setNode i n).freqAt j = s.freqAt j := rfl
@[simp] theorem State.setNode_codeLenAt (s : State) (i : Idx) (n : Node) (j : Nat) : (s.setNode i n).codeLenAt j = s.codeLenAt j := rfl
@[simp] theorem State.setNode_codeBitsAt (s : State) (i : Idx) (n : Node) (j : Nat) : (s.setNode i n).codeBitsAt j = s.codeBitsAt j := rfl
@[simp] theorem State.setNode_codeOf (s : State) (i : Idx) (n : Node) (j : Nat) : (s.setNode i n).codeOf j = s.codeOf j := rfl

/-! ## State.setCode -/

@[simp] theorem State.setCode_cfg (s : State) (y : Sym) (l : Len) (b : CodeBits) : (s.setCode y l b).cfg = s.cfg := rfl
@[simp] theorem State.setCode_phase (s : State) (y : Sym) (l : Len) (b : CodeBits) : (s.setCode y l b).phase = s.phase := rfl
@[simp] theorem State.setCode_errCode (s : State) (y : Sym) (l : Len) (b : CodeBits) : (s.setCode y l b).errCode = s.errCode := rfl
@[simp] theorem State.setCode_busy (s : State) (y : Sym) (l : Len) (b : CodeBits) : (s.setCode y l b).busy = s.busy := rfl
@[simp] theorem State.setCode_done (s : State) (y : Sym) (l : Len) (b : CodeBits) : (s.setCode y l b).done = s.done := rfl
@[simp] theorem State.setCode_freqValid (s : State) (y : Sym) (l : Len) (b : CodeBits) : (s.setCode y l b).freqValid = s.freqValid := rfl
@[simp] theorem State.setCode_treeValid (s : State) (y : Sym) (l : Len) (b : CodeBits) : (s.setCode y l b).treeValid = s.treeValid := rfl
@[simp] theorem State.setCode_treeOrigin (s : State) (y : Sym) (l : Len) (b : CodeBits) : (s.setCode y l b).treeOrigin = s.treeOrigin := rfl
@[simp] theorem State.setCode_codesValid (s : State) (y : Sym) (l : Len) (b : CodeBits) : (s.setCode y l b).codesValid = s.codesValid := rfl
@[simp] theorem State.setCode_freq (s : State) (y : Sym) (l : Len) (b : CodeBits) : (s.setCode y l b).freq = s.freq := rfl
@[simp] theorem State.setCode_node (s : State) (y : Sym) (l : Len) (b : CodeBits) : (s.setCode y l b).node = s.node := rfl
@[simp] theorem State.setCode_nodeCount (s : State) (y : Sym) (l : Len) (b : CodeBits) : (s.setCode y l b).nodeCount = s.nodeCount := rfl
@[simp] theorem State.setCode_root (s : State) (y : Sym) (l : Len) (b : CodeBits) : (s.setCode y l b).root = s.root := rfl
@[simp] theorem State.setCode_pq (s : State) (y : Sym) (l : Len) (b : CodeBits) : (s.setCode y l b).pq = s.pq := rfl
@[simp] theorem State.setCode_codeLen (s : State) (y : Sym) (l : Len) (b : CodeBits) : (s.setCode y l b).codeLen = s.codeLen.setIfInBounds y.toNat l := rfl
@[simp] theorem State.setCode_codeBits (s : State) (y : Sym) (l : Len) (b : CodeBits) : (s.setCode y l b).codeBits = s.codeBits.setIfInBounds y.toNat b := rfl
@[simp] theorem State.setCode_cursor (s : State) (y : Sym) (l : Len) (b : CodeBits) : (s.setCode y l b).cursor = s.cursor := rfl
@[simp] theorem State.setCode_sel (s : State) (y : Sym) (l : Len) (b : CodeBits) : (s.setCode y l b).sel = s.sel := rfl
@[simp] theorem State.setCode_work (s : State) (y : Sym) (l : Len) (b : CodeBits) : (s.setCode y l b).work = s.work := rfl
@[simp] theorem State.setCode_src (s : State) (y : Sym) (l : Len) (b : CodeBits) : (s.setCode y l b).src = s.src := rfl
@[simp] theorem State.setCode_snk (s : State) (y : Sym) (l : Len) (b : CodeBits) : (s.setCode y l b).snk = s.snk := rfl
@[simp] theorem State.setCode_trace (s : State) (y : Sym) (l : Len) (b : CodeBits) : (s.setCode y l b).trace = s.trace := rfl
@[simp] theorem State.setCode_pending (s : State) (y : Sym) (l : Len) (b : CodeBits) : (s.setCode y l b).pending = s.pending := rfl
@[simp] theorem State.setCode_rdata (s : State) (y : Sym) (l : Len) (b : CodeBits) : (s.setCode y l b).rdata = s.rdata := rfl
@[simp] theorem State.setCode_freeCount (s : State) (y : Sym) (l : Len) (b : CodeBits) : (s.setCode y l b).freeCount = s.freeCount := rfl
@[simp] theorem State.setCode_nodeAt (s : State) (y : Sym) (l : Len) (b : CodeBits) (j : Idx) : (s.setCode y l b).nodeAt j = s.nodeAt j := rfl
@[simp] theorem State.setCode_freqAt (s : State) (y : Sym) (l : Len) (b : CodeBits) (j : Nat) : (s.setCode y l b).freqAt j = s.freqAt j := rfl

/-! ## State.setPath -/

@[simp] theorem State.setPath_cfg (s : State) (l : Len) (b : CodeBits) : (s.setPath l b).cfg = s.cfg := rfl
@[simp] theorem State.setPath_phase (s : State) (l : Len) (b : CodeBits) : (s.setPath l b).phase = s.phase := rfl
@[simp] theorem State.setPath_errCode (s : State) (l : Len) (b : CodeBits) : (s.setPath l b).errCode = s.errCode := rfl
@[simp] theorem State.setPath_busy (s : State) (l : Len) (b : CodeBits) : (s.setPath l b).busy = s.busy := rfl
@[simp] theorem State.setPath_done (s : State) (l : Len) (b : CodeBits) : (s.setPath l b).done = s.done := rfl
@[simp] theorem State.setPath_freqValid (s : State) (l : Len) (b : CodeBits) : (s.setPath l b).freqValid = s.freqValid := rfl
@[simp] theorem State.setPath_treeValid (s : State) (l : Len) (b : CodeBits) : (s.setPath l b).treeValid = s.treeValid := rfl
@[simp] theorem State.setPath_treeOrigin (s : State) (l : Len) (b : CodeBits) : (s.setPath l b).treeOrigin = s.treeOrigin := rfl
@[simp] theorem State.setPath_codesValid (s : State) (l : Len) (b : CodeBits) : (s.setPath l b).codesValid = s.codesValid := rfl
@[simp] theorem State.setPath_freq (s : State) (l : Len) (b : CodeBits) : (s.setPath l b).freq = s.freq := rfl
@[simp] theorem State.setPath_node (s : State) (l : Len) (b : CodeBits) : (s.setPath l b).node = s.node := rfl
@[simp] theorem State.setPath_nodeCount (s : State) (l : Len) (b : CodeBits) : (s.setPath l b).nodeCount = s.nodeCount := rfl
@[simp] theorem State.setPath_root (s : State) (l : Len) (b : CodeBits) : (s.setPath l b).root = s.root := rfl
@[simp] theorem State.setPath_pq (s : State) (l : Len) (b : CodeBits) : (s.setPath l b).pq = s.pq := rfl
@[simp] theorem State.setPath_codeLen (s : State) (l : Len) (b : CodeBits) : (s.setPath l b).codeLen = s.codeLen := rfl
@[simp] theorem State.setPath_codeBits (s : State) (l : Len) (b : CodeBits) : (s.setPath l b).codeBits = s.codeBits := rfl
@[simp] theorem State.setPath_cursor (s : State) (l : Len) (b : CodeBits) : (s.setPath l b).cursor = s.cursor := rfl
@[simp] theorem State.setPath_sel (s : State) (l : Len) (b : CodeBits) : (s.setPath l b).sel = s.sel := rfl
@[simp] theorem State.setPath_work (s : State) (l : Len) (b : CodeBits) : (s.setPath l b).work = { s.work with pathLen := l, pathBits := b } := rfl
@[simp] theorem State.setPath_src (s : State) (l : Len) (b : CodeBits) : (s.setPath l b).src = s.src := rfl
@[simp] theorem State.setPath_snk (s : State) (l : Len) (b : CodeBits) : (s.setPath l b).snk = s.snk := rfl
@[simp] theorem State.setPath_trace (s : State) (l : Len) (b : CodeBits) : (s.setPath l b).trace = s.trace := rfl
@[simp] theorem State.setPath_pending (s : State) (l : Len) (b : CodeBits) : (s.setPath l b).pending = s.pending := rfl
@[simp] theorem State.setPath_rdata (s : State) (l : Len) (b : CodeBits) : (s.setPath l b).rdata = s.rdata := rfl
@[simp] theorem State.setPath_freeCount (s : State) (l : Len) (b : CodeBits) : (s.setPath l b).freeCount = s.freeCount := rfl
@[simp] theorem State.setPath_nodeAt (s : State) (l : Len) (b : CodeBits) (j : Idx) : (s.setPath l b).nodeAt j = s.nodeAt j := rfl
@[simp] theorem State.setPath_freqAt (s : State) (l : Len) (b : CodeBits) (j : Nat) : (s.setPath l b).freqAt j = s.freqAt j := rfl
@[simp] theorem State.setPath_codeLenAt (s : State) (l : Len) (b : CodeBits) (j : Nat) : (s.setPath l b).codeLenAt j = s.codeLenAt j := rfl
@[simp] theorem State.setPath_codeBitsAt (s : State) (l : Len) (b : CodeBits) (j : Nat) : (s.setPath l b).codeBitsAt j = s.codeBitsAt j := rfl
@[simp] theorem State.setPath_codeOf (s : State) (l : Len) (b : CodeBits) (j : Nat) : (s.setPath l b).codeOf j = s.codeOf j := rfl

/-! ## State.setStk -/

@[simp] theorem State.setStk_cfg (s : State) (k : List StkEntry) : (s.setStk k).cfg = s.cfg := rfl
@[simp] theorem State.setStk_phase (s : State) (k : List StkEntry) : (s.setStk k).phase = s.phase := rfl
@[simp] theorem State.setStk_errCode (s : State) (k : List StkEntry) : (s.setStk k).errCode = s.errCode := rfl
@[simp] theorem State.setStk_busy (s : State) (k : List StkEntry) : (s.setStk k).busy = s.busy := rfl
@[simp] theorem State.setStk_done (s : State) (k : List StkEntry) : (s.setStk k).done = s.done := rfl
@[simp] theorem State.setStk_freqValid (s : State) (k : List StkEntry) : (s.setStk k).freqValid = s.freqValid := rfl
@[simp] theorem State.setStk_treeValid (s : State) (k : List StkEntry) : (s.setStk k).treeValid = s.treeValid := rfl
@[simp] theorem State.setStk_treeOrigin (s : State) (k : List StkEntry) : (s.setStk k).treeOrigin = s.treeOrigin := rfl
@[simp] theorem State.setStk_codesValid (s : State) (k : List StkEntry) : (s.setStk k).codesValid = s.codesValid := rfl
@[simp] theorem State.setStk_freq (s : State) (k : List StkEntry) : (s.setStk k).freq = s.freq := rfl
@[simp] theorem State.setStk_node (s : State) (k : List StkEntry) : (s.setStk k).node = s.node := rfl
@[simp] theorem State.setStk_nodeCount (s : State) (k : List StkEntry) : (s.setStk k).nodeCount = s.nodeCount := rfl
@[simp] theorem State.setStk_root (s : State) (k : List StkEntry) : (s.setStk k).root = s.root := rfl
@[simp] theorem State.setStk_pq (s : State) (k : List StkEntry) : (s.setStk k).pq = s.pq := rfl
@[simp] theorem State.setStk_codeLen (s : State) (k : List StkEntry) : (s.setStk k).codeLen = s.codeLen := rfl
@[simp] theorem State.setStk_codeBits (s : State) (k : List StkEntry) : (s.setStk k).codeBits = s.codeBits := rfl
@[simp] theorem State.setStk_cursor (s : State) (k : List StkEntry) : (s.setStk k).cursor = s.cursor := rfl
@[simp] theorem State.setStk_sel (s : State) (k : List StkEntry) : (s.setStk k).sel = s.sel := rfl
@[simp] theorem State.setStk_work (s : State) (k : List StkEntry) : (s.setStk k).work = { s.work with stk := k } := rfl
@[simp] theorem State.setStk_src (s : State) (k : List StkEntry) : (s.setStk k).src = s.src := rfl
@[simp] theorem State.setStk_snk (s : State) (k : List StkEntry) : (s.setStk k).snk = s.snk := rfl
@[simp] theorem State.setStk_trace (s : State) (k : List StkEntry) : (s.setStk k).trace = s.trace := rfl
@[simp] theorem State.setStk_pending (s : State) (k : List StkEntry) : (s.setStk k).pending = s.pending := rfl
@[simp] theorem State.setStk_rdata (s : State) (k : List StkEntry) : (s.setStk k).rdata = s.rdata := rfl
@[simp] theorem State.setStk_freeCount (s : State) (k : List StkEntry) : (s.setStk k).freeCount = s.freeCount := rfl
@[simp] theorem State.setStk_nodeAt (s : State) (k : List StkEntry) (j : Idx) : (s.setStk k).nodeAt j = s.nodeAt j := rfl
@[simp] theorem State.setStk_freqAt (s : State) (k : List StkEntry) (j : Nat) : (s.setStk k).freqAt j = s.freqAt j := rfl
@[simp] theorem State.setStk_codeLenAt (s : State) (k : List StkEntry) (j : Nat) : (s.setStk k).codeLenAt j = s.codeLenAt j := rfl
@[simp] theorem State.setStk_codeBitsAt (s : State) (k : List StkEntry) (j : Nat) : (s.setStk k).codeBitsAt j = s.codeBitsAt j := rfl
@[simp] theorem State.setStk_codeOf (s : State) (k : List StkEntry) (j : Nat) : (s.setStk k).codeOf j = s.codeOf j := rfl

/-! ## State.start -/

@[simp] theorem State.start_cfg (s : State) (c : BitVec 2) : (s.start c).cfg = s.cfg := rfl
@[simp] theorem State.start_phase (s : State) (c : BitVec 2) : (s.start c).phase = s.phase := rfl
@[simp] theorem State.start_errCode (s : State) (c : BitVec 2) : (s.start c).errCode = s.errCode := rfl
@[simp] theorem State.start_busy (s : State) (c : BitVec 2) : (s.start c).busy = true := rfl
@[simp] theorem State.start_done (s : State) (c : BitVec 2) : (s.start c).done = false := rfl
@[simp] theorem State.start_freqValid (s : State) (c : BitVec 2) : (s.start c).freqValid = s.freqValid := rfl
@[simp] theorem State.start_treeValid (s : State) (c : BitVec 2) : (s.start c).treeValid = s.treeValid := rfl
@[simp] theorem State.start_treeOrigin (s : State) (c : BitVec 2) : (s.start c).treeOrigin = s.treeOrigin := rfl
@[simp] theorem State.start_codesValid (s : State) (c : BitVec 2) : (s.start c).codesValid = s.codesValid := rfl
@[simp] theorem State.start_freq (s : State) (c : BitVec 2) : (s.start c).freq = s.freq := rfl
@[simp] theorem State.start_node (s : State) (c : BitVec 2) : (s.start c).node = s.node := rfl
@[simp] theorem State.start_nodeCount (s : State) (c : BitVec 2) : (s.start c).nodeCount = s.nodeCount := rfl
@[simp] theorem State.start_root (s : State) (c : BitVec 2) : (s.start c).root = s.root := rfl
@[simp] theorem State.start_pq (s : State) (c : BitVec 2) : (s.start c).pq = s.pq := rfl
@[simp] theorem State.start_codeLen (s : State) (c : BitVec 2) : (s.start c).codeLen = s.codeLen := rfl
@[simp] theorem State.start_codeBits (s : State) (c : BitVec 2) : (s.start c).codeBits = s.codeBits := rfl
@[simp] theorem State.start_cursor (s : State) (c : BitVec 2) : (s.start c).cursor = s.cursor := rfl
@[simp] theorem State.start_sel (s : State) (c : BitVec 2) : (s.start c).sel = s.sel := rfl
@[simp] theorem State.start_work (s : State) (c : BitVec 2) : (s.start c).work = { s.work with macroCmd := c } := rfl
@[simp] theorem State.start_src (s : State) (c : BitVec 2) : (s.start c).src = s.src := rfl
@[simp] theorem State.start_snk (s : State) (c : BitVec 2) : (s.start c).snk = s.snk := rfl
@[simp] theorem State.start_trace (s : State) (c : BitVec 2) : (s.start c).trace = s.trace := rfl
@[simp] theorem State.start_pending (s : State) (c : BitVec 2) : (s.start c).pending = s.pending := rfl
@[simp] theorem State.start_rdata (s : State) (c : BitVec 2) : (s.start c).rdata = s.rdata := rfl
@[simp] theorem State.start_freeCount (s : State) (c : BitVec 2) : (s.start c).freeCount = s.freeCount := rfl
@[simp] theorem State.start_nodeAt (s : State) (c : BitVec 2) (j : Idx) : (s.start c).nodeAt j = s.nodeAt j := rfl
@[simp] theorem State.start_freqAt (s : State) (c : BitVec 2) (j : Nat) : (s.start c).freqAt j = s.freqAt j := rfl
@[simp] theorem State.start_codeLenAt (s : State) (c : BitVec 2) (j : Nat) : (s.start c).codeLenAt j = s.codeLenAt j := rfl
@[simp] theorem State.start_codeBitsAt (s : State) (c : BitVec 2) (j : Nat) : (s.start c).codeBitsAt j = s.codeBitsAt j := rfl
@[simp] theorem State.start_codeOf (s : State) (c : BitVec 2) (j : Nat) : (s.start c).codeOf j = s.codeOf j := rfl

/-! ## State.complete -/

@[simp] theorem State.complete_cfg (s : State) : (s.complete).cfg = s.cfg := rfl
@[simp] theorem State.complete_phase (s : State) : (s.complete).phase = .idle := rfl
@[simp] theorem State.complete_errCode (s : State) : (s.complete).errCode = s.errCode := rfl
@[simp] theorem State.complete_busy (s : State) : (s.complete).busy = false := rfl
@[simp] theorem State.complete_done (s : State) : (s.complete).done = true := rfl
@[simp] theorem State.complete_freqValid (s : State) : (s.complete).freqValid = s.freqValid := rfl
@[simp] theorem State.complete_treeValid (s : State) : (s.complete).treeValid = s.treeValid := rfl
@[simp] theorem State.complete_treeOrigin (s : State) : (s.complete).treeOrigin = s.treeOrigin := rfl
@[simp] theorem State.complete_codesValid (s : State) : (s.complete).codesValid = s.codesValid := rfl
@[simp] theorem State.complete_freq (s : State) : (s.complete).freq = s.freq := rfl
@[simp] theorem State.complete_node (s : State) : (s.complete).node = s.node := rfl
@[simp] theorem State.complete_nodeCount (s : State) : (s.complete).nodeCount = s.nodeCount := rfl
@[simp] theorem State.complete_root (s : State) : (s.complete).root = s.root := rfl
@[simp] theorem State.complete_pq (s : State) : (s.complete).pq = s.pq := rfl
@[simp] theorem State.complete_codeLen (s : State) : (s.complete).codeLen = s.codeLen := rfl
@[simp] theorem State.complete_codeBits (s : State) : (s.complete).codeBits = s.codeBits := rfl
@[simp] theorem State.complete_cursor (s : State) : (s.complete).cursor = s.cursor := rfl
@[simp] theorem State.complete_sel (s : State) : (s.complete).sel = s.sel := rfl
@[simp] theorem State.complete_work (s : State) : (s.complete).work = s.work := rfl
@[simp] theorem State.complete_src (s : State) : (s.complete).src = s.src := rfl
@[simp] theorem State.complete_snk (s : State) : (s.complete).snk = s.snk := rfl
@[simp] theorem State.complete_trace (s : State) : (s.complete).trace = s.trace := rfl
@[simp] theorem State.complete_pending (s : State) : (s.complete).pending = s.pending := rfl
@[simp] theorem State.complete_rdata (s : State) : (s.complete).rdata = s.rdata := rfl
@[simp] theorem State.complete_freeCount (s : State) : (s.complete).freeCount = s.freeCount := rfl
@[simp] theorem State.complete_nodeAt (s : State) (j : Idx) : (s.complete).nodeAt j = s.nodeAt j := rfl
@[simp] theorem State.complete_freqAt (s : State) (j : Nat) : (s.complete).freqAt j = s.freqAt j := rfl
@[simp] theorem State.complete_codeLenAt (s : State) (j : Nat) : (s.complete).codeLenAt j = s.codeLenAt j := rfl
@[simp] theorem State.complete_codeBitsAt (s : State) (j : Nat) : (s.complete).codeBitsAt j = s.codeBitsAt j := rfl
@[simp] theorem State.complete_codeOf (s : State) (j : Nat) : (s.complete).codeOf j = s.codeOf j := rfl

/-! ## State.forgetMacro -/

@[simp] theorem State.forgetMacro_cfg (s : State) : (s.forgetMacro).cfg = s.cfg := rfl
@[simp] theorem State.forgetMacro_phase (s : State) : (s.forgetMacro).phase = s.phase := rfl
@[simp] theorem State.forgetMacro_errCode (s : State) : (s.forgetMacro).errCode = s.errCode := rfl
@[simp] theorem State.forgetMacro_busy (s : State) : (s.forgetMacro).busy = s.busy := rfl
@[simp] theorem State.forgetMacro_done (s : State) : (s.forgetMacro).done = s.done := rfl
@[simp] theorem State.forgetMacro_freqValid (s : State) : (s.forgetMacro).freqValid = s.freqValid := rfl
@[simp] theorem State.forgetMacro_treeValid (s : State) : (s.forgetMacro).treeValid = s.treeValid := rfl
@[simp] theorem State.forgetMacro_treeOrigin (s : State) : (s.forgetMacro).treeOrigin = s.treeOrigin := rfl
@[simp] theorem State.forgetMacro_codesValid (s : State) : (s.forgetMacro).codesValid = s.codesValid := rfl
@[simp] theorem State.forgetMacro_freq (s : State) : (s.forgetMacro).freq = s.freq := rfl
@[simp] theorem State.forgetMacro_node (s : State) : (s.forgetMacro).node = s.node := rfl
@[simp] theorem State.forgetMacro_nodeCount (s : State) : (s.forgetMacro).nodeCount = s.nodeCount := rfl
@[simp] theorem State.forgetMacro_root (s : State) : (s.forgetMacro).root = s.root := rfl
@[simp] theorem State.forgetMacro_pq (s : State) : (s.forgetMacro).pq = s.pq := rfl
@[simp] theorem State.forgetMacro_codeLen (s : State) : (s.forgetMacro).codeLen = s.codeLen := rfl
@[simp] theorem State.forgetMacro_codeBits (s : State) : (s.forgetMacro).codeBits = s.codeBits := rfl
@[simp] theorem State.forgetMacro_cursor (s : State) : (s.forgetMacro).cursor = s.cursor := rfl
@[simp] theorem State.forgetMacro_sel (s : State) : (s.forgetMacro).sel = s.sel := rfl
@[simp] theorem State.forgetMacro_work (s : State) : (s.forgetMacro).work = { s.work with macroCmd := noMacro } := rfl
@[simp] theorem State.forgetMacro_src (s : State) : (s.forgetMacro).src = s.src := rfl
@[simp] theorem State.forgetMacro_snk (s : State) : (s.forgetMacro).snk = s.snk := rfl
@[simp] theorem State.forgetMacro_trace (s : State) : (s.forgetMacro).trace = s.trace := rfl
@[simp] theorem State.forgetMacro_pending (s : State) : (s.forgetMacro).pending = s.pending := rfl
@[simp] theorem State.forgetMacro_rdata (s : State) : (s.forgetMacro).rdata = s.rdata := rfl
@[simp] theorem State.forgetMacro_freeCount (s : State) : (s.forgetMacro).freeCount = s.freeCount := rfl
@[simp] theorem State.forgetMacro_nodeAt (s : State) (j : Idx) : (s.forgetMacro).nodeAt j = s.nodeAt j := rfl
@[simp] theorem State.forgetMacro_freqAt (s : State) (j : Nat) : (s.forgetMacro).freqAt j = s.freqAt j := rfl
@[simp] theorem State.forgetMacro_codeLenAt (s : State) (j : Nat) : (s.forgetMacro).codeLenAt j = s.codeLenAt j := rfl
@[simp] theorem State.forgetMacro_codeBitsAt (s : State) (j : Nat) : (s.forgetMacro).codeBitsAt j = s.codeBitsAt j := rfl
@[simp] theorem State.forgetMacro_codeOf (s : State) (j : Nat) : (s.forgetMacro).codeOf j = s.codeOf j := rfl

/-! ## raiseErr -/

@[simp] theorem raiseErr_cfg (s : State) (k : ErrKind) : (raiseErr k s).cfg = s.cfg := rfl
@[simp] theorem raiseErr_phase (s : State) (k : ErrKind) : (raiseErr k s).phase = .error := rfl
@[simp] theorem raiseErr_errCode (s : State) (k : ErrKind) : (raiseErr k s).errCode = some k := rfl
@[simp] theorem raiseErr_busy (s : State) (k : ErrKind) : (raiseErr k s).busy = false := rfl
@[simp] theorem raiseErr_done (s : State) (k : ErrKind) : (raiseErr k s).done = false := rfl
@[simp] theorem raiseErr_freqValid (s : State) (k : ErrKind) : (raiseErr k s).freqValid = false := rfl
@[simp] theorem raiseErr_treeValid (s : State) (k : ErrKind) : (raiseErr k s).treeValid = false := rfl
@[simp] theorem raiseErr_treeOrigin (s : State) (k : ErrKind) : (raiseErr k s).treeOrigin = s.treeOrigin := rfl
@[simp] theorem raiseErr_codesValid (s : State) (k : ErrKind) : (raiseErr k s).codesValid = false := rfl
@[simp] theorem raiseErr_freq (s : State) (k : ErrKind) : (raiseErr k s).freq = s.freq := rfl
@[simp] theorem raiseErr_node (s : State) (k : ErrKind) : (raiseErr k s).node = s.node := rfl
@[simp] theorem raiseErr_nodeCount (s : State) (k : ErrKind) : (raiseErr k s).nodeCount = s.nodeCount := rfl
@[simp] theorem raiseErr_root (s : State) (k : ErrKind) : (raiseErr k s).root = s.root := rfl
@[simp] theorem raiseErr_pq (s : State) (k : ErrKind) : (raiseErr k s).pq = s.pq := rfl
@[simp] theorem raiseErr_codeLen (s : State) (k : ErrKind) : (raiseErr k s).codeLen = s.codeLen := rfl
@[simp] theorem raiseErr_codeBits (s : State) (k : ErrKind) : (raiseErr k s).codeBits = s.codeBits := rfl
@[simp] theorem raiseErr_cursor (s : State) (k : ErrKind) : (raiseErr k s).cursor = s.cursor := rfl
@[simp] theorem raiseErr_sel (s : State) (k : ErrKind) : (raiseErr k s).sel = s.sel := rfl
@[simp] theorem raiseErr_work (s : State) (k : ErrKind) : (raiseErr k s).work = s.work := rfl
@[simp] theorem raiseErr_src (s : State) (k : ErrKind) : (raiseErr k s).src = s.src := rfl
@[simp] theorem raiseErr_snk (s : State) (k : ErrKind) : (raiseErr k s).snk = s.snk := rfl
@[simp] theorem raiseErr_trace (s : State) (k : ErrKind) : (raiseErr k s).trace = s.trace := rfl
@[simp] theorem raiseErr_pending (s : State) (k : ErrKind) : (raiseErr k s).pending = s.pending := rfl
@[simp] theorem raiseErr_rdata (s : State) (k : ErrKind) : (raiseErr k s).rdata = s.rdata := rfl
@[simp] theorem raiseErr_freeCount (s : State) (k : ErrKind) : (raiseErr k s).freeCount = s.freeCount := rfl
@[simp] theorem raiseErr_nodeAt (s : State) (k : ErrKind) (j : Idx) : (raiseErr k s).nodeAt j = s.nodeAt j := rfl
@[simp] theorem raiseErr_freqAt (s : State) (k : ErrKind) (j : Nat) : (raiseErr k s).freqAt j = s.freqAt j := rfl
@[simp] theorem raiseErr_codeLenAt (s : State) (k : ErrKind) (j : Nat) : (raiseErr k s).codeLenAt j = s.codeLenAt j := rfl
@[simp] theorem raiseErr_codeBitsAt (s : State) (k : ErrKind) (j : Nat) : (raiseErr k s).codeBitsAt j = s.codeBitsAt j := rfl
@[simp] theorem raiseErr_codeOf (s : State) (k : ErrKind) (j : Nat) : (raiseErr k s).codeOf j = s.codeOf j := rfl

/-! ## coreReset -/

@[simp] theorem coreReset_cfg (s : State) : (coreReset s).cfg = s.cfg := rfl
@[simp] theorem coreReset_phase (s : State) : (coreReset s).phase = .idle := rfl
@[simp] theorem coreReset_errCode (s : State) : (coreReset s).errCode = none := rfl
@[simp] theorem coreReset_busy (s : State) : (coreReset s).busy = false := rfl
@[simp] theorem coreReset_done (s : State) : (coreReset s).done = false := rfl
@[simp] theorem coreReset_freqValid (s : State) : (coreReset s).freqValid = false := rfl
@[simp] theorem coreReset_treeValid (s : State) : (coreReset s).treeValid = false := rfl
@[simp] theorem coreReset_treeOrigin (s : State) : (coreReset s).treeOrigin = .built := rfl
@[simp] theorem coreReset_codesValid (s : State) : (coreReset s).codesValid = false := rfl
@[simp] theorem coreReset_freq (s : State) : (coreReset s).freq = table 256 fun x => Config.free 32 (.freq x) s.freeCount := rfl
@[simp] theorem coreReset_node (s : State) : (coreReset s).node = table 1024 fun i => freeNode s.freeCount i := rfl
@[simp] theorem coreReset_nodeCount (s : State) : (coreReset s).nodeCount = 0#10 := rfl
@[simp] theorem coreReset_root (s : State) : (coreReset s).root = 0#10 := rfl
@[simp] theorem coreReset_pq (s : State) : (coreReset s).pq = [] := rfl
@[simp] theorem coreReset_codeLen (s : State) : (coreReset s).codeLen = table 257 fun x => Config.free 9 (.codeLen x) s.freeCount := rfl
@[simp] theorem coreReset_codeBits (s : State) : (coreReset s).codeBits = table 257 fun x => Config.free 256 (.codeBits x) s.freeCount := rfl
@[simp] theorem coreReset_cursor (s : State) : (coreReset s).cursor = 0#10 := rfl
@[simp] theorem coreReset_sel (s : State) : (coreReset s).sel = 0#10 := rfl
@[simp] theorem coreReset_work (s : State) : (coreReset s).work = freeWork s.freeCount := rfl
@[simp] theorem coreReset_src (s : State) : (coreReset s).src = s.src := rfl
@[simp] theorem coreReset_snk (s : State) : (coreReset s).snk = s.snk := rfl
@[simp] theorem coreReset_trace (s : State) : (coreReset s).trace = s.trace := rfl
@[simp] theorem coreReset_pending (s : State) : (coreReset s).pending = s.pending := rfl
@[simp] theorem coreReset_rdata (s : State) : (coreReset s).rdata = s.rdata := rfl
@[simp] theorem coreReset_freeCount (s : State) : (coreReset s).freeCount = s.freeCount + 1 := rfl

/-! ## analyzeStart -/

@[simp] theorem analyzeStart_cfg (s : State) : (analyzeStart s).cfg = s.cfg := rfl
@[simp] theorem analyzeStart_phase (s : State) : (analyzeStart s).phase = .analyze := rfl
@[simp] theorem analyzeStart_errCode (s : State) : (analyzeStart s).errCode = s.errCode := rfl
@[simp] theorem analyzeStart_busy (s : State) : (analyzeStart s).busy = s.busy := rfl
@[simp] theorem analyzeStart_done (s : State) : (analyzeStart s).done = s.done := rfl
@[simp] theorem analyzeStart_freqValid (s : State) : (analyzeStart s).freqValid = false := rfl
@[simp] theorem analyzeStart_treeValid (s : State) : (analyzeStart s).treeValid = false := rfl
@[simp] theorem analyzeStart_treeOrigin (s : State) : (analyzeStart s).treeOrigin = s.treeOrigin := rfl
@[simp] theorem analyzeStart_codesValid (s : State) : (analyzeStart s).codesValid = false := rfl
@[simp] theorem analyzeStart_freq (s : State) : (analyzeStart s).freq = Vector.replicate 256 0#32 := rfl
@[simp] theorem analyzeStart_node (s : State) : (analyzeStart s).node = s.node := rfl
@[simp] theorem analyzeStart_nodeCount (s : State) : (analyzeStart s).nodeCount = s.nodeCount := rfl
@[simp] theorem analyzeStart_root (s : State) : (analyzeStart s).root = s.root := rfl
@[simp] theorem analyzeStart_pq (s : State) : (analyzeStart s).pq = s.pq := rfl
@[simp] theorem analyzeStart_codeLen (s : State) : (analyzeStart s).codeLen = s.codeLen := rfl
@[simp] theorem analyzeStart_codeBits (s : State) : (analyzeStart s).codeBits = s.codeBits := rfl
@[simp] theorem analyzeStart_cursor (s : State) : (analyzeStart s).cursor = s.cursor := rfl
@[simp] theorem analyzeStart_sel (s : State) : (analyzeStart s).sel = s.sel := rfl
@[simp] theorem analyzeStart_work (s : State) : (analyzeStart s).work = s.work := rfl
@[simp] theorem analyzeStart_src (s : State) : (analyzeStart s).src = s.src := rfl
@[simp] theorem analyzeStart_snk (s : State) : (analyzeStart s).snk = s.snk := rfl
@[simp] theorem analyzeStart_trace (s : State) : (analyzeStart s).trace = s.trace := rfl
@[simp] theorem analyzeStart_pending (s : State) : (analyzeStart s).pending = s.pending := rfl
@[simp] theorem analyzeStart_rdata (s : State) : (analyzeStart s).rdata = s.rdata := rfl
@[simp] theorem analyzeStart_freeCount (s : State) : (analyzeStart s).freeCount = s.freeCount := rfl
@[simp] theorem analyzeStart_nodeAt (s : State) (j : Idx) : (analyzeStart s).nodeAt j = s.nodeAt j := rfl
@[simp] theorem analyzeStart_codeLenAt (s : State) (j : Nat) : (analyzeStart s).codeLenAt j = s.codeLenAt j := rfl
@[simp] theorem analyzeStart_codeBitsAt (s : State) (j : Nat) : (analyzeStart s).codeBitsAt j = s.codeBitsAt j := rfl
@[simp] theorem analyzeStart_codeOf (s : State) (j : Nat) : (analyzeStart s).codeOf j = s.codeOf j := rfl

/-! ## buildStart -/

@[simp] theorem buildStart_cfg (s : State) : (buildStart s).cfg = s.cfg := rfl
@[simp] theorem buildStart_phase (s : State) : (buildStart s).phase = .build := rfl
@[simp] theorem buildStart_errCode (s : State) : (buildStart s).errCode = s.errCode := rfl
@[simp] theorem buildStart_busy (s : State) : (buildStart s).busy = s.busy := rfl
@[simp] theorem buildStart_done (s : State) : (buildStart s).done = s.done := rfl
@[simp] theorem buildStart_freqValid (s : State) : (buildStart s).freqValid = s.freqValid := rfl
@[simp] theorem buildStart_treeValid (s : State) : (buildStart s).treeValid = false := rfl
@[simp] theorem buildStart_treeOrigin (s : State) : (buildStart s).treeOrigin = s.treeOrigin := rfl
@[simp] theorem buildStart_codesValid (s : State) : (buildStart s).codesValid = false := rfl
@[simp] theorem buildStart_freq (s : State) : (buildStart s).freq = s.freq := rfl
@[simp] theorem buildStart_node (s : State) : (buildStart s).node = s.node := rfl
@[simp] theorem buildStart_nodeCount (s : State) : (buildStart s).nodeCount = 0#10 := rfl
@[simp] theorem buildStart_root (s : State) : (buildStart s).root = s.root := rfl
@[simp] theorem buildStart_pq (s : State) : (buildStart s).pq = [] := rfl
@[simp] theorem buildStart_codeLen (s : State) : (buildStart s).codeLen = s.codeLen := rfl
@[simp] theorem buildStart_codeBits (s : State) : (buildStart s).codeBits = s.codeBits := rfl
@[simp] theorem buildStart_cursor (s : State) : (buildStart s).cursor = s.cursor := rfl
@[simp] theorem buildStart_sel (s : State) : (buildStart s).sel = s.sel := rfl
@[simp] theorem buildStart_work (s : State) : (buildStart s).work = { s.work with m := 0#9 } := rfl
@[simp] theorem buildStart_src (s : State) : (buildStart s).src = s.src := rfl
@[simp] theorem buildStart_snk (s : State) : (buildStart s).snk = s.snk := rfl
@[simp] theorem buildStart_trace (s : State) : (buildStart s).trace = s.trace := rfl
@[simp] theorem buildStart_pending (s : State) : (buildStart s).pending = s.pending := rfl
@[simp] theorem buildStart_rdata (s : State) : (buildStart s).rdata = s.rdata := rfl
@[simp] theorem buildStart_freeCount (s : State) : (buildStart s).freeCount = s.freeCount := rfl
@[simp] theorem buildStart_nodeAt (s : State) (j : Idx) : (buildStart s).nodeAt j = s.nodeAt j := rfl
@[simp] theorem buildStart_freqAt (s : State) (j : Nat) : (buildStart s).freqAt j = s.freqAt j := rfl
@[simp] theorem buildStart_codeLenAt (s : State) (j : Nat) : (buildStart s).codeLenAt j = s.codeLenAt j := rfl
@[simp] theorem buildStart_codeBitsAt (s : State) (j : Nat) : (buildStart s).codeBitsAt j = s.codeBitsAt j := rfl
@[simp] theorem buildStart_codeOf (s : State) (j : Nat) : (buildStart s).codeOf j = s.codeOf j := rfl

/-! ## buildEnd -/

@[simp] theorem buildEnd_cfg (s : State) : (buildEnd s).cfg = s.cfg := rfl
@[simp] theorem buildEnd_phase (s : State) : (buildEnd s).phase = s.phase := rfl
@[simp] theorem buildEnd_errCode (s : State) : (buildEnd s).errCode = s.errCode := rfl
@[simp] theorem buildEnd_busy (s : State) : (buildEnd s).busy = s.busy := rfl
@[simp] theorem buildEnd_done (s : State) : (buildEnd s).done = s.done := rfl
@[simp] theorem buildEnd_freqValid (s : State) : (buildEnd s).freqValid = false := rfl
@[simp] theorem buildEnd_treeValid (s : State) : (buildEnd s).treeValid = true := rfl
@[simp] theorem buildEnd_treeOrigin (s : State) : (buildEnd s).treeOrigin = .built := rfl
@[simp] theorem buildEnd_codesValid (s : State) : (buildEnd s).codesValid = s.codesValid := rfl
@[simp] theorem buildEnd_freq (s : State) : (buildEnd s).freq = s.freq := rfl
@[simp] theorem buildEnd_node (s : State) : (buildEnd s).node = s.node := rfl
@[simp] theorem buildEnd_nodeCount (s : State) : (buildEnd s).nodeCount = s.nodeCount := rfl
@[simp] theorem buildEnd_root (s : State) : (buildEnd s).root = s.root := rfl
@[simp] theorem buildEnd_pq (s : State) : (buildEnd s).pq = s.pq := rfl
@[simp] theorem buildEnd_codeLen (s : State) : (buildEnd s).codeLen = s.codeLen := rfl
@[simp] theorem buildEnd_codeBits (s : State) : (buildEnd s).codeBits = s.codeBits := rfl
@[simp] theorem buildEnd_cursor (s : State) : (buildEnd s).cursor = s.cursor := rfl
@[simp] theorem buildEnd_sel (s : State) : (buildEnd s).sel = s.sel := rfl
@[simp] theorem buildEnd_work (s : State) : (buildEnd s).work = s.work := rfl
@[simp] theorem buildEnd_src (s : State) : (buildEnd s).src = s.src := rfl
@[simp] theorem buildEnd_snk (s : State) : (buildEnd s).snk = s.snk := rfl
@[simp] theorem buildEnd_trace (s : State) : (buildEnd s).trace = s.trace := rfl
@[simp] theorem buildEnd_pending (s : State) : (buildEnd s).pending = s.pending := rfl
@[simp] theorem buildEnd_rdata (s : State) : (buildEnd s).rdata = s.rdata := rfl
@[simp] theorem buildEnd_freeCount (s : State) : (buildEnd s).freeCount = s.freeCount := rfl
@[simp] theorem buildEnd_nodeAt (s : State) (j : Idx) : (buildEnd s).nodeAt j = s.nodeAt j := rfl
@[simp] theorem buildEnd_freqAt (s : State) (j : Nat) : (buildEnd s).freqAt j = s.freqAt j := rfl
@[simp] theorem buildEnd_codeLenAt (s : State) (j : Nat) : (buildEnd s).codeLenAt j = s.codeLenAt j := rfl
@[simp] theorem buildEnd_codeBitsAt (s : State) (j : Nat) : (buildEnd s).codeBitsAt j = s.codeBitsAt j := rfl
@[simp] theorem buildEnd_codeOf (s : State) (j : Nat) : (buildEnd s).codeOf j = s.codeOf j := rfl

/-! ## gencodesStart -/

@[simp] theorem gencodesStart_cfg (s : State) : (gencodesStart s).cfg = s.cfg := rfl
@[simp] theorem gencodesStart_phase (s : State) : (gencodesStart s).phase = .gencodes := rfl
@[simp] theorem gencodesStart_errCode (s : State) : (gencodesStart s).errCode = s.errCode := rfl
@[simp] theorem gencodesStart_busy (s : State) : (gencodesStart s).busy = s.busy := rfl
@[simp] theorem gencodesStart_done (s : State) : (gencodesStart s).done = s.done := rfl
@[simp] theorem gencodesStart_freqValid (s : State) : (gencodesStart s).freqValid = s.freqValid := rfl
@[simp] theorem gencodesStart_treeValid (s : State) : (gencodesStart s).treeValid = s.treeValid := rfl
@[simp] theorem gencodesStart_treeOrigin (s : State) : (gencodesStart s).treeOrigin = s.treeOrigin := rfl
@[simp] theorem gencodesStart_codesValid (s : State) : (gencodesStart s).codesValid = false := rfl
@[simp] theorem gencodesStart_freq (s : State) : (gencodesStart s).freq = s.freq := rfl
@[simp] theorem gencodesStart_node (s : State) : (gencodesStart s).node = s.node := rfl
@[simp] theorem gencodesStart_nodeCount (s : State) : (gencodesStart s).nodeCount = s.nodeCount := rfl
@[simp] theorem gencodesStart_root (s : State) : (gencodesStart s).root = s.root := rfl
@[simp] theorem gencodesStart_pq (s : State) : (gencodesStart s).pq = s.pq := rfl
@[simp] theorem gencodesStart_codeLen (s : State) : (gencodesStart s).codeLen = Vector.replicate 257 0#9 := rfl
@[simp] theorem gencodesStart_codeBits (s : State) : (gencodesStart s).codeBits = Vector.replicate 257 0#256 := rfl
@[simp] theorem gencodesStart_cursor (s : State) : (gencodesStart s).cursor = s.cursor := rfl
@[simp] theorem gencodesStart_sel (s : State) : (gencodesStart s).sel = s.sel := rfl
@[simp] theorem gencodesStart_work (s : State) : (gencodesStart s).work = s.work := rfl
@[simp] theorem gencodesStart_src (s : State) : (gencodesStart s).src = s.src := rfl
@[simp] theorem gencodesStart_snk (s : State) : (gencodesStart s).snk = s.snk := rfl
@[simp] theorem gencodesStart_trace (s : State) : (gencodesStart s).trace = s.trace := rfl
@[simp] theorem gencodesStart_pending (s : State) : (gencodesStart s).pending = s.pending := rfl
@[simp] theorem gencodesStart_rdata (s : State) : (gencodesStart s).rdata = s.rdata := rfl
@[simp] theorem gencodesStart_freeCount (s : State) : (gencodesStart s).freeCount = s.freeCount := rfl
@[simp] theorem gencodesStart_nodeAt (s : State) (j : Idx) : (gencodesStart s).nodeAt j = s.nodeAt j := rfl
@[simp] theorem gencodesStart_freqAt (s : State) (j : Nat) : (gencodesStart s).freqAt j = s.freqAt j := rfl

/-! ## wrhdrStart -/

@[simp] theorem wrhdrStart_cfg (s : State) : (wrhdrStart s).cfg = s.cfg := rfl
@[simp] theorem wrhdrStart_phase (s : State) : (wrhdrStart s).phase = .wrhdr := rfl
@[simp] theorem wrhdrStart_errCode (s : State) : (wrhdrStart s).errCode = s.errCode := rfl
@[simp] theorem wrhdrStart_busy (s : State) : (wrhdrStart s).busy = s.busy := rfl
@[simp] theorem wrhdrStart_done (s : State) : (wrhdrStart s).done = s.done := rfl
@[simp] theorem wrhdrStart_freqValid (s : State) : (wrhdrStart s).freqValid = s.freqValid := rfl
@[simp] theorem wrhdrStart_treeValid (s : State) : (wrhdrStart s).treeValid = s.treeValid := rfl
@[simp] theorem wrhdrStart_treeOrigin (s : State) : (wrhdrStart s).treeOrigin = s.treeOrigin := rfl
@[simp] theorem wrhdrStart_codesValid (s : State) : (wrhdrStart s).codesValid = s.codesValid := rfl
@[simp] theorem wrhdrStart_freq (s : State) : (wrhdrStart s).freq = s.freq := rfl
@[simp] theorem wrhdrStart_node (s : State) : (wrhdrStart s).node = s.node := rfl
@[simp] theorem wrhdrStart_nodeCount (s : State) : (wrhdrStart s).nodeCount = s.nodeCount := rfl
@[simp] theorem wrhdrStart_root (s : State) : (wrhdrStart s).root = s.root := rfl
@[simp] theorem wrhdrStart_pq (s : State) : (wrhdrStart s).pq = s.pq := rfl
@[simp] theorem wrhdrStart_codeLen (s : State) : (wrhdrStart s).codeLen = s.codeLen := rfl
@[simp] theorem wrhdrStart_codeBits (s : State) : (wrhdrStart s).codeBits = s.codeBits := rfl
@[simp] theorem wrhdrStart_cursor (s : State) : (wrhdrStart s).cursor = s.cursor := rfl
@[simp] theorem wrhdrStart_sel (s : State) : (wrhdrStart s).sel = s.sel := rfl
@[simp] theorem wrhdrStart_work (s : State) : (wrhdrStart s).work = { s.work with stk := [pendingSubtree s.root] } := rfl
@[simp] theorem wrhdrStart_src (s : State) : (wrhdrStart s).src = s.src := rfl
@[simp] theorem wrhdrStart_snk (s : State) : (wrhdrStart s).snk = s.snk := rfl
@[simp] theorem wrhdrStart_trace (s : State) : (wrhdrStart s).trace = s.trace := rfl
@[simp] theorem wrhdrStart_pending (s : State) : (wrhdrStart s).pending = s.pending := rfl
@[simp] theorem wrhdrStart_rdata (s : State) : (wrhdrStart s).rdata = s.rdata := rfl
@[simp] theorem wrhdrStart_freeCount (s : State) : (wrhdrStart s).freeCount = s.freeCount := rfl
@[simp] theorem wrhdrStart_nodeAt (s : State) (j : Idx) : (wrhdrStart s).nodeAt j = s.nodeAt j := rfl
@[simp] theorem wrhdrStart_freqAt (s : State) (j : Nat) : (wrhdrStart s).freqAt j = s.freqAt j := rfl
@[simp] theorem wrhdrStart_codeLenAt (s : State) (j : Nat) : (wrhdrStart s).codeLenAt j = s.codeLenAt j := rfl
@[simp] theorem wrhdrStart_codeBitsAt (s : State) (j : Nat) : (wrhdrStart s).codeBitsAt j = s.codeBitsAt j := rfl
@[simp] theorem wrhdrStart_codeOf (s : State) (j : Nat) : (wrhdrStart s).codeOf j = s.codeOf j := rfl

/-! ## rdhdrStart -/

@[simp] theorem rdhdrStart_cfg (s : State) : (rdhdrStart s).cfg = s.cfg := rfl
@[simp] theorem rdhdrStart_phase (s : State) : (rdhdrStart s).phase = .rdhdr := rfl
@[simp] theorem rdhdrStart_errCode (s : State) : (rdhdrStart s).errCode = s.errCode := rfl
@[simp] theorem rdhdrStart_busy (s : State) : (rdhdrStart s).busy = s.busy := rfl
@[simp] theorem rdhdrStart_done (s : State) : (rdhdrStart s).done = s.done := rfl
@[simp] theorem rdhdrStart_freqValid (s : State) : (rdhdrStart s).freqValid = s.freqValid := rfl
@[simp] theorem rdhdrStart_treeValid (s : State) : (rdhdrStart s).treeValid = false := rfl
@[simp] theorem rdhdrStart_treeOrigin (s : State) : (rdhdrStart s).treeOrigin = s.treeOrigin := rfl
@[simp] theorem rdhdrStart_codesValid (s : State) : (rdhdrStart s).codesValid = false := rfl
@[simp] theorem rdhdrStart_freq (s : State) : (rdhdrStart s).freq = s.freq := rfl
@[simp] theorem rdhdrStart_node (s : State) : (rdhdrStart s).node = s.node := rfl
@[simp] theorem rdhdrStart_nodeCount (s : State) : (rdhdrStart s).nodeCount = 0#10 := rfl
@[simp] theorem rdhdrStart_root (s : State) : (rdhdrStart s).root = s.root := rfl
@[simp] theorem rdhdrStart_pq (s : State) : (rdhdrStart s).pq = s.pq := rfl
@[simp] theorem rdhdrStart_codeLen (s : State) : (rdhdrStart s).codeLen = s.codeLen := rfl
@[simp] theorem rdhdrStart_codeBits (s : State) : (rdhdrStart s).codeBits = s.codeBits := rfl
@[simp] theorem rdhdrStart_cursor (s : State) : (rdhdrStart s).cursor = s.cursor := rfl
@[simp] theorem rdhdrStart_sel (s : State) : (rdhdrStart s).sel = s.sel := rfl
@[simp] theorem rdhdrStart_work (s : State) : (rdhdrStart s).work = { s.work with stk := [] } := rfl
@[simp] theorem rdhdrStart_src (s : State) : (rdhdrStart s).src = s.src := rfl
@[simp] theorem rdhdrStart_snk (s : State) : (rdhdrStart s).snk = s.snk := rfl
@[simp] theorem rdhdrStart_trace (s : State) : (rdhdrStart s).trace = s.trace := rfl
@[simp] theorem rdhdrStart_pending (s : State) : (rdhdrStart s).pending = s.pending := rfl
@[simp] theorem rdhdrStart_rdata (s : State) : (rdhdrStart s).rdata = s.rdata := rfl
@[simp] theorem rdhdrStart_freeCount (s : State) : (rdhdrStart s).freeCount = s.freeCount := rfl
@[simp] theorem rdhdrStart_nodeAt (s : State) (j : Idx) : (rdhdrStart s).nodeAt j = s.nodeAt j := rfl
@[simp] theorem rdhdrStart_freqAt (s : State) (j : Nat) : (rdhdrStart s).freqAt j = s.freqAt j := rfl
@[simp] theorem rdhdrStart_codeLenAt (s : State) (j : Nat) : (rdhdrStart s).codeLenAt j = s.codeLenAt j := rfl
@[simp] theorem rdhdrStart_codeBitsAt (s : State) (j : Nat) : (rdhdrStart s).codeBitsAt j = s.codeBitsAt j := rfl
@[simp] theorem rdhdrStart_codeOf (s : State) (j : Nat) : (rdhdrStart s).codeOf j = s.codeOf j := rfl

end Sys2Proof.Machine
end

