-- ==== Sys2Proof/Laws/Res.lean ====
section
/-!
SUPPORT. How parts of commands compose: what `bind`, `seq` and `settle` do, and how a fact about every state a part may end in
is carried through a composition.
-/
namespace Sys2Proof.Machine

@[simp] theorem Res.bind_ok {α β : Type} (a : α) (s : State) (f : α → State → Res β) : (Res.ok a s).bind f = f a s := rfl

@[simp] theorem Res.bind_stop {α β : Type} (r : Stop) (s : State) (f : α → State → Res β) :
    (Res.stop r s).bind f = .stop r s := rfl

@[simp] theorem Res.seq_ok (a : Unit) (s : State) (f : State → Res Unit) : (Res.ok a s).seq f = f s := rfl

@[simp] theorem Res.seq_stop (r : Stop) (s : State) (f : State → Res Unit) : (Res.stop r s).seq f = .stop r s := rfl

theorem Res.bind_assoc {α β γ : Type} (r : Res α) (f : α → State → Res β) (g : β → State → Res γ) :
    (r.bind f).bind g = r.bind fun a s => (f a s).bind g := by cases r <;> rfl

theorem Res.seq_assoc (r : Res Unit) (f g : State → Res Unit) : (r.seq f).seq g = r.seq fun s => (f s).seq g := by
  cases r <;> rfl

theorem Res.bind_seq {α : Type} (r : Res α) (f : α → State → Res Unit) (g : State → Res Unit) :
    (r.bind f).seq g = r.bind fun a s => (f a s).seq g := by cases r <;> rfl

/-- A composition goes on exactly where both parts do. -/
theorem Res.bind_eq_ok {α β : Type} {r : Res α} {f : α → State → Res β} {b : β} {t : State} :
    r.bind f = .ok b t ↔ ∃ a s, r = .ok a s ∧ f a s = .ok b t := by cases r <;> simp

/-- A composition stops where its first part does, or where the second does after the first went on. -/
theorem Res.bind_eq_stop {α β : Type} {r : Res α} {f : α → State → Res β} {q : Stop} {t : State} :
    r.bind f = .stop q t ↔ r = .stop q t ∨ ∃ a s, r = .ok a s ∧ f a s = .stop q t := by cases r <;> simp

theorem Res.seq_eq_ok {r : Res Unit} {f : State → Res Unit} {t : State} :
    r.seq f = .ok () t ↔ ∃ s, r = .ok () s ∧ f s = .ok () t := by cases r <;> simp

theorem Res.seq_eq_stop {r : Res Unit} {f : State → Res Unit} {q : Stop} {t : State} :
    r.seq f = .stop q t ↔ r = .stop q t ∨ ∃ s, r = .ok () s ∧ f s = .stop q t := by cases r <;> simp

@[simp] theorem settle_ok (a : Unit) (s : State) : settle (.ok a s) = .next s := rfl
@[simp] theorem settle_raise (k : ErrKind) (s : State) : settle (.stop (.raise k) s) = .next (raiseErr k s) := rfl
@[simp] theorem settle_stall (s : State) : settle (.stop .stall s) = .next s := rfl
@[simp] theorem settle_fault (f : Fault) (s : State) : settle (.stop (.fault f) s) = .fault f := rfl
@[simp] theorem settle_refuse (q : Refusal) (s : State) : settle (.stop (.refuse q) s) = .refused q := rfl

/-- What a settled result says: the part went on, it stalled, or it raised an error. -/
theorem settle_eq_next {r : Res Unit} {t : State} (h : settle r = .next t) :
    r = .ok () t ∨ r = .stop .stall t ∨ ∃ k s, r = .stop (.raise k) s ∧ t = raiseErr k s := by
  match r, h with
  | .ok _ s, h => simp at h; simp [h]
  | .stop .stall s, h => simp at h; simp [h]
  | .stop (.raise k) s, h => simp at h; simp [h]
  | .stop (.fault f) s, h => simp at h
  | .stop (.refuse q) s, h => simp at h

/-! ## A fact about every state a part ends in -/

/-- `P` holds of the state a part ends in, whether it goes on or has stopped. -/
def Res.Ends {α : Type} (P : State → Prop) (r : Res α) : Prop :=
  match r with
  | .ok _ s => P s
  | .stop _ s => P s

@[simp] theorem Res.ends_ok {α : Type} (P : State → Prop) (a : α) (s : State) : (Res.ok a s).Ends P ↔ P s := Iff.rfl

@[simp] theorem Res.ends_stop {α : Type} (P : State → Prop) (q : Stop) (s : State) :
    (Res.stop q s : Res α).Ends P ↔ P s := Iff.rfl

theorem Res.Ends.mono {α : Type} {P Q : State → Prop} {r : Res α} (h : r.Ends P) (hpq : ∀ s, P s → Q s) : r.Ends Q := by
  cases r <;> exact hpq _ h

theorem Res.Ends.bind {α β : Type} {P : State → Prop} {r : Res α} {f : α → State → Res β} (h : r.Ends P)
    (hf : ∀ a s, P s → (f a s).Ends P) : (r.bind f).Ends P := by
  cases r with
  | ok a s => exact hf a s h
  | stop q s => exact h

theorem Res.Ends.seq {P : State → Prop} {r : Res Unit} {f : State → Res Unit} (h : r.Ends P)
    (hf : ∀ s, P s → (f s).Ends P) : (r.seq f).Ends P := h.bind fun _ s hs => hf s hs

/-- A fact that a part ends in and that error entry keeps holds of the next state. -/
theorem Res.Ends.settle {P : State → Prop} {r : Res Unit} {t : State} (h : r.Ends P)
    (herr : ∀ k s, P s → P (raiseErr k s)) (ht : Machine.settle r = .next t) : P t := by
  obtain rfl | rfl | ⟨k, s, rfl, rfl⟩ := settle_eq_next ht
  · exact h
  · exact h
  · exact herr k s h

end Sys2Proof.Machine
end

