-- ==== Sys2Proof/Laws/Accept.lean ====
section
/-!
SUPPORT. Everything the acceptance of a command word can do (spec/47_sequencer_commands.md R153), for later proofs to cite
instead of unfolding it.
-/
namespace Sys2Proof.Machine

/-- In `IDLE` with its prerequisite a command runs its body and completes (R153 case (f)). -/
theorem accept_of_ready {pre : State → Bool} {m : BitVec 2} {body : State → Res Unit} {s : State} (hi : s.isIdle)
    (hp : pre s = true) :
    accept pre m body s = settle ((body (s.start m)).seq fun t => .ok () t.complete) := by
  simp [accept, hi.1, hi.2, hp]

/-- In `IDLE` without its prerequisite a command raises `Sequence` (R153 case (e)). -/
theorem accept_of_not_ready {pre : State → Bool} {m : BitVec 2} {body : State → Res Unit} {s : State} (hi : s.isIdle)
    (hp : pre s = false) : accept pre m body s = .next (raiseErr .sequence s) := by
  simp [accept, hi.1, hi.2, hp]

/-- While busy and in `ERROR` a command is ignored (R153 cases (a) and (c)). -/
theorem accept_of_ignored {pre : State → Bool} {m : BitVec 2} {body : State → Res Unit} {s : State}
    (h : s.busy = true ∨ s.phase = .error) : accept pre m body s = .next s := by
  unfold accept
  rcases h with h | h
  · simp [h]
  · simp [h]

/-- What a next state of a command is: the state itself, the error `Sequence`, the completed body, the body where it stalls, or
the error that the body raises. -/
theorem accept_cases {pre : State → Bool} {m : BitVec 2} {body : State → Res Unit} {s t : State}
    (h : accept pre m body s = .next t) :
    ((s.busy = true ∨ s.phase = .error) ∧ t = s) ∨
    (s.busy = false ∧ s.phase ≠ .error ∧ pre s = false ∧ t = raiseErr .sequence s) ∨
    (s.busy = false ∧ s.phase ≠ .error ∧ pre s = true ∧
      ((∃ u, body (s.start m) = .ok () u ∧ t = u.complete) ∨ body (s.start m) = .stop .stall t ∨
        ∃ k u, body (s.start m) = .stop (.raise k) u ∧ t = raiseErr k u)) := by
  by_cases hb : s.busy = true
  · rw [accept_of_ignored (.inl hb)] at h
    cases h
    exact .inl ⟨.inl hb, rfl⟩
  by_cases he : s.phase = .error
  · rw [accept_of_ignored (.inr he)] at h
    cases h
    exact .inl ⟨.inr he, rfl⟩
  have hb : s.busy = false := by simpa using hb
  cases hp : pre s with
  | false =>
    simp only [accept, hb, he, hp] at h
    cases h
    exact .inr (.inl ⟨hb, he, rfl, rfl⟩)
  | true =>
    refine .inr (.inr ⟨hb, he, rfl, ?_⟩)
    simp only [accept, hb, he, hp, if_true, if_false, Bool.false_eq_true] at h
    rcases settle_eq_next h with h' | h' | ⟨k, u, h', rfl⟩
    · obtain ⟨u, hu, h'⟩ := Res.seq_eq_ok.1 h'
      cases h'
      exact .inl ⟨u, hu, rfl⟩
    · rcases Res.seq_eq_stop.1 h' with h' | ⟨u, -, h'⟩
      · exact .inr (.inl h')
      · cases h'
    · rcases Res.seq_eq_stop.1 h' with h' | ⟨v, -, h'⟩
      · exact .inr (.inr ⟨k, u, h', rfl⟩)
      · cases h'

/-- An illegal word is ignored or raises `IllegalCmd` (R153 cases (a), (c), (d)). -/
theorem acceptIllegal_cases (s : State) :
    ((s.busy = true ∨ s.phase = .error) ∧ acceptIllegal s = .next s) ∨
    (s.busy = false ∧ s.phase ≠ .error ∧ acceptIllegal s = .next (raiseErr .illegalCmd s)) := by
  unfold acceptIllegal
  by_cases hb : s.busy = true
  · exact .inl ⟨.inl hb, by simp [hb]⟩
  by_cases he : s.phase = .error
  · exact .inl ⟨.inr he, by simp [he]⟩
  · exact .inr ⟨by simpa using hb, he, by simp [hb, he]⟩

/-- CLEAR is ignored while busy, else it resets the CORE (R150, R153). -/
theorem execClear_cases (s : State) :
    (s.busy = true ∧ execClear s = .next s) ∨ (s.busy = false ∧ execClear s = .next (coreReset s)) := by
  unfold execClear
  cases s.busy <;> simp

end Sys2Proof.Machine
end

