-- ==== Sys2Proof/Laws/Arena.lean ====
section
/-!
SUPPORT. The tables' accessors: a read after a write (spec/10_state.md R14, R15, R19), and everything `Alloc` can do (R16).
-/
namespace Sys2Proof.Machine

/-! ## The arena -/

/-- An entry reads as it was written; every other entry reads as before. -/
theorem nodeAt_setNode (s : State) (i j : Idx) (n : Node) :
    (s.setNode i n).nodeAt j = if i = j then n else s.nodeAt j := by
  simp only [State.nodeAt, State.setNode, Vector.getElem_set]
  by_cases h : i = j
  · simp [h]
  · have hn : i.toNat ≠ j.toNat := fun hc => h (BitVec.eq_of_toNat_eq hc)
    simp [h, hn]

@[simp] theorem nodeAt_setNode_self (s : State) (i : Idx) (n : Node) : (s.setNode i n).nodeAt i = n := by
  simp [nodeAt_setNode]

theorem nodeAt_setNode_of_ne (s : State) {i j : Idx} (n : Node) (h : i ≠ j) :
    (s.setNode i n).nodeAt j = s.nodeAt j := by simp [nodeAt_setNode, h]

/-- `Alloc` raises `TreeOverflow` in a full arena, or writes the next entry and counts it (R16). -/
theorem alloc_cases (n : Node) (s : State) :
    (s.nodeCount.toNat = s.cfg.nodeCap ∧ alloc n s = .stop (.raise .treeOverflow) s) ∨
    (s.nodeCount.toNat ≠ s.cfg.nodeCap ∧
      alloc n s = .ok s.nodeCount { s.setNode s.nodeCount n with nodeCount := s.nodeCount + 1#10 }) := by
  unfold alloc
  split
  · exact .inl ⟨‹_›, rfl⟩
  · exact .inr ⟨‹_›, rfl⟩

/-- The count of allocated entries does not wrap below a capacity that fits its ten bits. -/
theorem nodeCount_succ {s : State} (hc : s.cfg.nodeCap < 1024) (hn : s.nodeCount.toNat < s.cfg.nodeCap) :
    (s.nodeCount + 1#10).toNat = s.nodeCount.toNat + 1 := by
  rw [BitVec.toNat_add]
  exact Nat.mod_eq_of_lt (by simp; omega)

/-! ## The frequency table -/

/-- A counter reads as it was written; every other counter reads as before. -/
theorem freqAt_setFreq (s : State) (x : BitVec 8) (v : Count) (y : Nat) :
    (s.setFreq x v).freqAt y = if x.toNat = y then v else s.freqAt y := by
  have hx : x.toNat < 256 := x.isLt
  simp only [State.freqAt, State.setFreq, Vector.getElem?_set]
  split <;> simp

/-- Counting a word changes one counter, never the hardwired one (R14). -/
theorem freqAt_setFreq_eos (s : State) (x : BitVec 8) (v : Count) : (s.setFreq x v).freqAt 256 = s.freqAt 256 := by
  rw [freqAt_setFreq, if_neg]
  have hx : x.toNat < 256 := x.isLt
  omega

/-! ## The code table -/

/-- A symbol of the table has the code that was written; every other symbol keeps its code. -/
theorem codeLenAt_setCode (s : State) (x : Sym) (len : Len) (bits : CodeBits) (y : Nat) (hx : x.toNat < alphabet) :
    (s.setCode x len bits).codeLenAt y = if x.toNat = y then len else s.codeLenAt y := by
  simp only [State.codeLenAt, State.setCode, Vector.getElem?_setIfInBounds]
  split <;> simp_all

theorem codeBitsAt_setCode (s : State) (x : Sym) (len : Len) (bits : CodeBits) (y : Nat) (hx : x.toNat < alphabet) :
    (s.setCode x len bits).codeBitsAt y = if x.toNat = y then bits else s.codeBitsAt y := by
  simp only [State.codeBitsAt, State.setCode, Vector.getElem?_setIfInBounds]
  split <;> simp_all

theorem codeOf_setCode (s : State) (x : Sym) (len : Len) (bits : CodeBits) (y : Nat) (hx : x.toNat < alphabet) :
    (s.setCode x len bits).codeOf y = if x.toNat = y then msbBits len.toNat bits else s.codeOf y := by
  simp only [State.codeOf, codeLenAt_setCode s x len bits y hx, codeBitsAt_setCode s x len bits y hx]
  split <;> rfl

/-- Before the walk no symbol has a code (R108). -/
theorem gencodesStart_codeOf (s : State) (x : Nat) : (gencodesStart s).codeOf x = [] := by
  have h : (gencodesStart s).codeLenAt x = 0#9 := by
    simp only [State.codeLenAt, gencodesStart, Vector.getElem?_replicate]
    split <;> rfl
  simp [State.codeOf, h, msbBits]

end Sys2Proof.Machine
end

