-- ==== Sys2Proof/Laws/Bits.lean ====
section
/-!
SUPPORT. The bit order of the streams: `msbBits` and `ofMsbBits` are inverses (spec/20_memory.md R42, R44).
-/
namespace Sys2Proof

@[simp] theorem msbBits_zero {w : Nat} (v : BitVec w) : msbBits 0 v = [] := rfl

theorem msbBits_succ {w : Nat} (n : Nat) (v : BitVec w) : msbBits (n + 1) v = v.getLsbD n :: msbBits n v := rfl

@[simp] theorem msbBits_length {w : Nat} (n : Nat) (v : BitVec w) : (msbBits n v).length = n := by
  induction n with
  | zero => rfl
  | succ n ih => simp [msbBits_succ, ih]

@[simp] theorem ofMsbBits_nil (acc : Nat) : ofMsbBits acc [] = acc := rfl

@[simp] theorem ofMsbBits_cons (acc : Nat) (b : Bool) (bs : List Bool) :
    ofMsbBits acc (b :: bs) = ofMsbBits (2 * acc + b.toNat) bs := rfl

/-- The bits before a bit string weigh `2 ^` its length. -/
theorem ofMsbBits_acc (acc : Nat) (bits : List Bool) : ofMsbBits acc bits = acc * 2 ^ bits.length + ofMsbBits 0 bits := by
  induction bits generalizing acc with
  | nil => simp
  | cons b bs ih =>
    rw [ofMsbBits_cons, ofMsbBits_cons, ih, ih (2 * 0 + b.toNat), List.length_cons, Nat.pow_succ]
    ring

theorem ofMsbBits_append (bs cs : List Bool) : ofMsbBits 0 (bs ++ cs) = ofMsbBits 0 bs * 2 ^ cs.length + ofMsbBits 0 cs := by
  have h : ∀ acc, ofMsbBits acc (bs ++ cs) = ofMsbBits (ofMsbBits acc bs) cs := by
    induction bs with
    | nil => intro acc; rfl
    | cons b bs ih => intro acc; exact ih _
  rw [h, ofMsbBits_acc]

theorem ofMsbBits_lt (bits : List Bool) : ofMsbBits 0 bits < 2 ^ bits.length := by
  induction bits with
  | nil => simp
  | cons b bs ih =>
    rw [ofMsbBits_cons, ofMsbBits_acc, List.length_cons, Nat.pow_succ]
    cases b <;> simp <;> omega

/-- What is written with `n` bits is read back as the low `n` bits of the value (R44). -/
theorem ofMsbBits_msbBits {w : Nat} (n : Nat) (v : BitVec w) : ofMsbBits 0 (msbBits n v) = v.toNat % 2 ^ n := by
  induction n with
  | zero => simp [Nat.mod_one]
  | succ n ih =>
    have hb : v.toNat / 2 ^ n % 2 = (v.toNat.testBit n).toNat := by
      rw [Nat.testBit_eq_decide_div_mod_eq]
      rcases Nat.mod_two_eq_zero_or_one (v.toNat / 2 ^ n) with h | h <;> simp [h]
    rw [msbBits_succ, ofMsbBits_cons, ofMsbBits_acc, msbBits_length, ih, Nat.mod_pow_succ, hb]
    simp only [BitVec.getLsbD]
    ring

theorem msbBits_eq_of_toNat_mod {w w' : Nat} {n : Nat} {v : BitVec w} {v' : BitVec w'}
    (h : v.toNat % 2 ^ n = v'.toNat % 2 ^ n) : msbBits n v = msbBits n v' := by
  have hb : ∀ i, i < n → v.getLsbD i = v'.getLsbD i := by
    intro i hi
    have := congrArg (Nat.testBit · i) h
    simpa [Nat.testBit_mod_two_pow, hi, BitVec.getLsbD] using this
  clear h
  induction n with
  | zero => rfl
  | succ n ih =>
    rw [msbBits_succ, msbBits_succ, hb n (Nat.lt_succ_self n), ih fun i hi => hb i (Nat.lt_succ_of_lt hi)]

theorem ofMsbBits_injective {bs cs : List Bool} (hl : bs.length = cs.length) (h : ofMsbBits 0 bs = ofMsbBits 0 cs) :
    bs = cs := by
  induction bs generalizing cs with
  | nil => cases cs with
    | nil => rfl
    | cons c cs => simp at hl
  | cons b bs ih =>
    cases cs with
    | nil => simp at hl
    | cons c cs =>
      have hl' : bs.length = cs.length := by simpa using hl
      rw [ofMsbBits_cons, ofMsbBits_cons, ofMsbBits_acc, ofMsbBits_acc (2 * 0 + c.toNat), hl'] at h
      have h1 := ofMsbBits_lt bs
      have h2 := ofMsbBits_lt cs
      rw [hl'] at h1
      have hbc : b = c := by cases b <;> cases c <;> simp at h ⊢ <;> omega
      subst hbc
      rw [ih hl' (Nat.add_left_cancel h)]

/-- The bits that were read are the bits of the value read (R42). -/
theorem msbBits_ofMsbBits {w : Nat} (bits : List Bool) (hw : bits.length ≤ w) :
    msbBits bits.length (BitVec.ofNat w (ofMsbBits 0 bits)) = bits := by
  apply ofMsbBits_injective (by simp)
  rw [ofMsbBits_msbBits]
  have h := ofMsbBits_lt bits
  have hp : 2 ^ bits.length ≤ 2 ^ w := Nat.pow_le_pow_right (by decide) hw
  rw [BitVec.toNat_ofNat, Nat.mod_eq_of_lt (a := ofMsbBits 0 bits) (by omega), Nat.mod_eq_of_lt h]

end Sys2Proof
end

