-- ==== Sys2Proof/Laws/PerInstr.lean ====
section
/-!
SUPPORT. Statements for all instructions, one lemma for each constructor.
-/
namespace Sys2Proof.Laws.EncodingWidth

/-- The width in bits that spec/opcode_table.json gives an instruction's row. -/
def tableWidth (i : Instr) : Nat :=
  match i with
  | .hdrNode => 1
  | .hdrLeaf _ => 10
  | .fileMagic => 32
  | .analyze | .build | .gencodes | .wrmagic | .wrhdr | .encbody | .close | .rdmagic | .rdhdr | .decbody
  | .compress | .decompress | .clear | .illegal0 | .illegalE | .illegalF | .illegalDefault _ => 64

/-- An instruction's encoding has the width of its row, for every value of the magic and every operand. -/
def Statement (i : Instr) : Prop := ∀ magic : BitVec 32, (encode magic i).width = tableWidth i

theorem analyze : Statement .analyze := fun _ => rfl
theorem build : Statement .build := fun _ => rfl
theorem gencodes : Statement .gencodes := fun _ => rfl
theorem wrmagic : Statement .wrmagic := fun _ => rfl
theorem wrhdr : Statement .wrhdr := fun _ => rfl
theorem encbody : Statement .encbody := fun _ => rfl
theorem close : Statement .close := fun _ => rfl
theorem rdmagic : Statement .rdmagic := fun _ => rfl
theorem rdhdr : Statement .rdhdr := fun _ => rfl
theorem decbody : Statement .decbody := fun _ => rfl
theorem compress : Statement .compress := fun _ => rfl
theorem decompress : Statement .decompress := fun _ => rfl
theorem clear : Statement .clear := fun _ => rfl
theorem illegal0 : Statement .illegal0 := fun _ => rfl
theorem illegalE : Statement .illegalE := fun _ => rfl
theorem illegalF : Statement .illegalF := fun _ => rfl
theorem illegalDefault (v : Reg) : Statement (.illegalDefault v) := fun _ => rfl
theorem hdrNode : Statement .hdrNode := fun _ => rfl
theorem hdrLeaf (sym : Sym) : Statement (.hdrLeaf sym) := fun _ => rfl
theorem fileMagic : Statement .fileMagic := fun magic => msbBits_length 32 magic

end Sys2Proof.Laws.EncodingWidth
end

