-- ==== Sys2Proof/Laws/Queue.lean ====
section
/-!
SUPPORT. The queue's operations (spec/10_state.md R18): their lengths, and everything `RemoveMin` can do.
-/
namespace Sys2Proof.Machine

@[simp] theorem insertEntry_nil (e : QEntry) : insertEntry e [] = [e] := rfl

/-- An insertion adds one entry. -/
@[simp] theorem insertEntry_length (e : QEntry) (q : List QEntry) : (insertEntry e q).length = q.length + 1 := by
  induction q with
  | nil => rfl
  | cons x xs ih =>
    simp only [insertEntry]
    split <;> simp [ih]

theorem insertEntry_ne_nil (e : QEntry) (q : List QEntry) : insertEntry e q ≠ [] := fun h => by
  have := insertEntry_length e q
  simp [h] at this

/-- `RemoveMin` finds an empty queue, or takes its first entry. -/
theorem removeMin_cases (s : State) :
    (s.pq = [] ∧ removeMin s = .stop (.fault .queueEmpty) s) ∨
    (∃ e rest, s.pq = e :: rest ∧ removeMin s = .ok e { s with pq := rest }) := by
  unfold removeMin
  cases h : s.pq with
  | nil => exact .inl ⟨rfl, rfl⟩
  | cons e rest => exact .inr ⟨e, rest, rfl, rfl⟩

/-- No entry is before itself (R94). -/
theorem QEntry.before_irrefl (x : QEntry) : x.before x = false := by simp [QEntry.before]

end Sys2Proof.Machine
end

