-- ==== Sys2Proof/Laws/Streams.lean ====
section
/-!
SUPPORT. Everything the four stream primitives can do (spec/20_memory.md R42 to R45), and the form of the streams that every
operation on them keeps.
-/
namespace Sys2Proof.Machine

@[simp] theorem answering_none : answering none = true := rfl

@[simp] theorem afterAnswer_none : afterAnswer none = none := rfl

theorem answering_eq_false {a : Option Nat} : answering a = false ↔ a = some 0 := by simp [answering]

theorem peek_eq_some {src : Source} {n v : Nat} :
    src.peek n = some v ↔ src.pos + n ≤ src.bits.length ∧ ofMsbBits 0 (src.rest.take n) = v := by
  simp only [Source.peek, Source.rest]
  split <;> simp_all

theorem peek_eq_none {src : Source} {n : Nat} : src.peek n = none ↔ src.bits.length < src.pos + n := by
  simp only [Source.peek]
  split <;> simp_all

/-- A read stalls, gives the next `n` bits, or reports end of stream (R42). -/
theorem srcRead_cases (n : Nat) (s : State) :
    (s.src.answers = some 0 ∧ srcRead n s = .stop .stall s) ∨
    (∃ v, s.src.answers ≠ some 0 ∧ s.src.peek n = some v ∧
      srcRead n s = .ok (some (BitVec.ofNat 32 v))
        { s with src := { s.src with pos := s.src.pos + n, answers := afterAnswer s.src.answers }
                 work := { s.work with w := BitVec.ofNat 32 v, eos := false }
                 trace := s.trace ++ [.srcRead n (some (BitVec.ofNat 32 v))] }) ∨
    (s.src.answers ≠ some 0 ∧ s.src.peek n = none ∧
      srcRead n s = .ok none
        { s with src := { s.src with pos := s.src.bits.length, answers := afterAnswer s.src.answers }
                 work := { s.work with w := Config.free 32 .srcData s.freeCount, eos := true }
                 trace := s.trace ++ [.srcRead n none]
                 freeCount := s.freeCount + 1 }) := by
  unfold srcRead
  cases ha : answering s.src.answers with
  | false => exact .inl ⟨answering_eq_false.1 ha, rfl⟩
  | true =>
    have hne : s.src.answers ≠ some 0 := fun h => by simp [h, answering] at ha
    cases hp : s.src.peek n with
    | some v => exact .inr (.inl ⟨v, hne, rfl, rfl⟩)
    | none => exact .inr (.inr ⟨hne, rfl, rfl⟩)

/-- A rewind stalls or puts the position at the start (R43). -/
theorem srcReset_cases (s : State) :
    (s.src.answers = some 0 ∧ srcReset s = .stop .stall s) ∨
    (s.src.answers ≠ some 0 ∧
      srcReset s = .ok ()
        { s with src := { s.src with pos := 0, answers := afterAnswer s.src.answers }, trace := s.trace ++ [.srcReset] }) := by
  unfold srcReset
  cases ha : answering s.src.answers with
  | false => exact .inl ⟨answering_eq_false.1 ha, rfl⟩
  | true => exact .inr ⟨fun h => by simp [h, answering] at ha, rfl⟩

/-- A write is refused on a closed sink, stalls, or appends the low `n` bits (R44). -/
theorem sinkWrite_cases (n : Nat) (v : BitVec 32) (s : State) :
    (s.snk.closed = true ∧ sinkWrite n v s = .stop (.refuse .sinkClosed) s) ∨
    (s.snk.closed = false ∧ s.snk.answers = some 0 ∧ sinkWrite n v s = .stop .stall s) ∨
    (s.snk.closed = false ∧ s.snk.answers ≠ some 0 ∧
      sinkWrite n v s = .ok ()
        { s with snk := { s.snk with bits := s.snk.bits ++ msbBits n v, answers := afterAnswer s.snk.answers }
                 trace := s.trace ++ [.sinkWrite n v] }) := by
  unfold sinkWrite
  cases hc : s.snk.closed with
  | true => exact .inl ⟨rfl, by simp⟩
  | false =>
    cases ha : answering s.snk.answers with
    | false => exact .inr (.inl ⟨rfl, answering_eq_false.1 ha, by simp⟩)
    | true => exact .inr (.inr ⟨rfl, fun h => by simp [h, answering] at ha, by simp⟩)

/-- A close is refused on a closed sink, stalls, or pads to a whole byte and closes (R45). -/
theorem sinkClose_cases (s : State) :
    (s.snk.closed = true ∧ sinkClose s = .stop (.refuse .sinkClosed) s) ∨
    (s.snk.closed = false ∧ s.snk.answers = some 0 ∧ sinkClose s = .stop .stall s) ∨
    (s.snk.closed = false ∧ s.snk.answers ≠ some 0 ∧
      sinkClose s = .ok ()
        { s with snk := { s.snk with bits := s.snk.bits ++ padding s.cfg.padBit s.snk.bits.length
                                     closed := true, answers := afterAnswer s.snk.answers }
                 trace := s.trace ++ [.sinkClose] }) := by
  unfold sinkClose
  cases hc : s.snk.closed with
  | true => exact .inl ⟨rfl, by simp⟩
  | false =>
    cases ha : answering s.snk.answers with
    | false => exact .inr (.inl ⟨rfl, answering_eq_false.1 ha, by simp⟩)
    | true => exact .inr (.inr ⟨rfl, fun h => by simp [h, answering] at ha, by simp⟩)

/-- The padding fills the last byte. -/
theorem padding_length (p : Bool) (n : Nat) : (n + (padding p n).length) % 8 = 0 := by
  simp only [padding, List.length_replicate]
  omega

/-! ## The streams keep their form (R41) -/

theorem wf_iff {s : State} : Memory.wf s = true ↔ s.src.pos ≤ s.src.bits.length := by simp [Memory.wf]

theorem wf_reset : Memory.wf State.reset = true := rfl

theorem srcRead_wf (n : Nat) {s : State} (h : Memory.wf s = true) : (srcRead n s).Ends fun t => Memory.wf t = true := by
  rcases srcRead_cases n s with ⟨-, e⟩ | ⟨v, -, hp, e⟩ | ⟨-, -, e⟩
  · rw [e]; exact h
  · rw [e, Res.ends_ok, wf_iff]; exact (peek_eq_some.1 hp).1
  · rw [e, Res.ends_ok, wf_iff]

theorem srcReset_wf {s : State} (h : Memory.wf s = true) : (srcReset s).Ends fun t => Memory.wf t = true := by
  rcases srcReset_cases s with ⟨-, e⟩ | ⟨-, e⟩
  · rw [e]; exact h
  · rw [e, Res.ends_ok, wf_iff]; exact Nat.zero_le _

theorem sinkWrite_wf (n : Nat) (v : BitVec 32) {s : State} (h : Memory.wf s = true) :
    (sinkWrite n v s).Ends fun t => Memory.wf t = true := by
  rcases sinkWrite_cases n v s with ⟨-, e⟩ | ⟨-, -, e⟩ | ⟨-, -, e⟩ <;> rw [e] <;> exact h

theorem sinkClose_wf {s : State} (h : Memory.wf s = true) : (sinkClose s).Ends fun t => Memory.wf t = true := by
  rcases sinkClose_cases s with ⟨-, e⟩ | ⟨-, -, e⟩ | ⟨-, -, e⟩ <;> rw [e] <;> exact h

/-- Reset between commands touches no stream (R191). -/
theorem abandon_of_idle {s : State} (h : s.busy = false) : abandon s = s := by simp [abandon, h]

/-- The host cannot break the form either: it opens a source at a position within it. -/
theorem hostAct_wf (a : HostAction) {s t : State} (h : Memory.wf s = true) (ht : hostAct a s = .next t) :
    Memory.wf t = true := by
  rw [wf_iff] at h ⊢
  cases a with
  | write addr data =>
    simp only [hostAct, writeReg] at ht
    split at ht <;> cases ht <;> exact h
  | read addr =>
    simp only [hostAct, readReg] at ht
    split at ht <;> cases ht <;> exact h
  | reset =>
    cases ht
    simp only [coreReset, abandon]
    split
    · exact Nat.le_of_lt_succ (Nat.mod_lt _ (Nat.succ_pos _))
    · exact h
  | openSource bits pos answers =>
    simp only [hostAct] at ht
    split at ht <;> cases ht
    exact Nat.min_le_right _ _
  | openSink bits closed answers =>
    simp only [hostAct] at ht
    split at ht <;> cases ht
    exact h

end Sys2Proof.Machine
end

