-- ==== Sys2Proof/Laws/View.lean ====
section
/-!
SUPPORT. The views of the state that statements use: the tokens of a tree against its header (spec/30_encoding.md R69), and
commands run after an outcome (R73).
-/
namespace Sys2Proof.Machine

/-- The header is the tokens in order. -/
theorem Tree.tokens_flatten (t : Tree) : t.tokens.flatten = t.header := by
  induction t with
  | leaf s => simp [Tree.tokens, Tree.header]
  | internal l r hl hr => simp [Tree.tokens, Tree.header, hl, hr]

/-- One token a node. -/
@[simp] theorem Tree.tokens_length (t : Tree) : t.tokens.length = t.size := by
  induction t with
  | leaf s => rfl
  | internal l r hl hr => simp [Tree.tokens, Tree.size, hl, hr]; omega

@[simp] theorem Tree.bitsBefore_zero (t : Tree) : t.bitsBefore 0 = 0 := by simp [Tree.bitsBefore]

/-- Past the last node the whole header lies before. -/
theorem Tree.bitsBefore_of_size_le (t : Tree) {n : Nat} (h : t.size ≤ n) : t.bitsBefore n = t.header.length := by
  rw [Tree.bitsBefore, List.take_of_length_le (by simpa using h), ← List.length_flatten, Tree.tokens_flatten]

/-- A node's flag bit lies before the next node's. -/
theorem Tree.bitsBefore_succ (t : Tree) {n : Nat} (h : n < t.tokens.length) :
    t.bitsBefore (n + 1) = t.bitsBefore n + t.tokens[n].length := by
  rw [Tree.bitsBefore, Tree.bitsBefore, ← List.take_append_getElem h]
  simp only [List.map_append, List.sum_append, List.map_cons, List.map_nil, List.sum_cons, List.sum_nil, Nat.add_zero]

/-! ## Commands after an outcome -/

@[simp] theorem thenCommands_fault (is : List Instr) (r : Fault) : thenCommands is (.fault r) = .fault r := rfl

@[simp] theorem thenCommands_refused (is : List Instr) (r : Refusal) : thenCommands is (.refused r) = .refused r := rfl

theorem thenCommands_of_idle (is : List Instr) {t : State} (h : t.phase = .idle) :
    thenCommands is (.next t) = runCommands is t := by simp [thenCommands, h]

theorem thenCommands_of_not_idle (is : List Instr) {t : State} (h : t.phase ≠ .idle) :
    thenCommands is (.next t) = .next t := by simp [thenCommands, h]

/-- A list of commands is its first command and the rest after it. -/
theorem runCommands_cons (i : Instr) (is : List Instr) (s : State) :
    runCommands (i :: is) s = thenCommands is (exec i s) := by
  simp only [runCommands]
  cases exec i s <;> rfl

end Sys2Proof.Machine
end

