-- ==== Sys2Proof/Tests/Slice0.lean ====
section
/-!
SUPPORT. Tests and witnesses. Expected values come from spec/95_test_vectors.md (the vector is named at each test), from the
tables of spec/30_encoding.md and from the rules named; never from the model. The witnesses show, for each obligation with
hypotheses, a concrete state and operands that meet them.
-/
namespace Sys2Proof.Tests

open Sys2Proof.Machine

set_option Elab.async false

/-! ## Helpers -/

/-- A bit string written as a list of 0 and 1. -/
def bitString (l : List Nat) : List Bool := l.map fun b => decide (b = 1)

/-- Bytes written as numbers. -/
def byteList (l : List Nat) : List (BitVec 8) := l.map (BitVec.ofNat 8)

/-- The reset state with a source of some bits, never stalling. -/
def onBits (bits : List Bool) : State := { State.reset with src := { bits := bits, pos := 0, answers := none } }

/-- The reset state with a source of some bytes. -/
def onBytes (l : List Nat) : State := onBits (bitsOfBytes (byteList l))

/-- A state with another phase, as a running command of its own or in `ERROR`. -/
def inPhase (p : Phase) (s : State) : State :=
  { s with phase := p, busy := decide (p ≠ .idle ∧ p ≠ .error), work := { s.work with macroCmd := noMacro } }

/-- A state with one host action to come. -/
def hostDoes (a : HostAction) (s : State) : State := { s with pending := [a] }

/-- The frequency table of V-A3 ("AAB"), valid. -/
def countedAAB (s : State) : State :=
  { ({ s with freq := Vector.replicate 256 0#32 }.setFreq 0x41#8 2#32).setFreq 0x42#8 1#32 with freqValid := true }

/-- The tree of V-B4 ("AAB") in the arena, built and valid. -/
def builtAAB (s : State) : State :=
  { ((((s.setNode 0#10 (leafNode 0x41#9 2#40)).setNode 1#10 (leafNode 0x42#9 1#40)).setNode 2#10
      (leafNode 256#9 1#40)).setNode 3#10 (internalNode 2#40 1#10 2#10)).setNode 4#10 (internalNode 4#40 0#10 3#10) with
    nodeCount := 5#10, root := 4#10, treeValid := true, treeOrigin := .built }

/-- The code table of V-B4 beside its tree, valid. -/
def codedAAB (s : State) : State :=
  { (((gencodesStart (builtAAB s)).setCode 0x41#9 1#9 0#256).setCode 0x42#9 2#9 2#256).setCode 256#9 2#9 3#256 with
    phase := s.phase, codesValid := true }

/-- The tree of V-B4 as a term. -/
def treeAAB : Tree := .internal (.leaf 0x41#9) (.internal (.leaf 0x42#9) (.leaf 256#9))

/-- The smallest tree. -/
def twoLeaves : Tree := .internal (.leaf 0x41#9) (.leaf 256#9)

/-- Does an outcome go on, to a state with a property? -/
def goesOn (o : Host.Outcome State Fault Refusal) (p : State → Bool) : Bool :=
  match o with
  | .next t => p t
  | .fault _ => false
  | .refused _ => false

/-- The refusal of an outcome. -/
def refusalOf (o : Host.Outcome State Fault Refusal) : Option Refusal :=
  match o with
  | .next _ => none
  | .fault _ => none
  | .refused r => some r

theorem goesOn_spec {o : Host.Outcome State Fault Refusal} {p : State → Bool} (h : goesOn o p = true) :
    ∃ t, o = .next t ∧ p t = true := by
  cases o with
  | next t => exact ⟨t, rfl, h⟩
  | fault r => simp [goesOn] at h
  | refused r => simp [goesOn] at h

/-- `STATUS`, `ERR` and `Src.pos` after a command, as the vectors give them. -/
def shows (status err pos : Nat) (t : State) : Bool :=
  decide (t.statusWord.toNat = status) && decide (t.errCodeBits.toNat = err) && decide (t.src.pos = pos)

/-- The sink's bits, and whether it is closed. -/
def wrote (bits : List Bool) (closed : Bool) (t : State) : Bool := decide (t.snk.bits = bits ∧ t.snk.closed = closed)

/-- The words of `NODE_INFO` of the first entries of the arena. -/
def infos (n : Nat) (t : State) : List Nat := (List.range n).map fun i => (t.nodeAt (BitVec.ofNat 10 i)).infoWord.toNat

/-! ## WellFormed and the decoder -/

theorem test_wellFormed_refuses_illegalDefault_5 : WellFormed (.illegalDefault 0x5#64) = false := by decide
theorem test_wellFormed_refuses_illegalDefault_0 : WellFormed (.illegalDefault 0x0#64) = false := by decide
theorem test_wellFormed_refuses_illegalDefault_F : WellFormed (.illegalDefault 0xF#64) = false := by decide
theorem test_wellFormed_takes_illegalDefault_10 : WellFormed (.illegalDefault 0x10#64) = true := by decide

/-! Words written out from R62 (bits [63:4] zero, opcode in [3:0]) and R63, one for each row. -/

theorem test_decode_analyze : decodeCmd 0b0001#64 = .analyze := by decide
theorem test_decode_build : decodeCmd 0b0010#64 = .build := by decide
theorem test_decode_gencodes : decodeCmd 0b0011#64 = .gencodes := by decide
theorem test_decode_wrmagic : decodeCmd 0b0100#64 = .wrmagic := by decide
theorem test_decode_wrhdr : decodeCmd 0b0101#64 = .wrhdr := by decide
theorem test_decode_encbody : decodeCmd 0b0110#64 = .encbody := by decide
theorem test_decode_close : decodeCmd 0b0111#64 = .close := by decide
theorem test_decode_rdmagic : decodeCmd 0b1000#64 = .rdmagic := by decide
theorem test_decode_rdhdr : decodeCmd 0b1001#64 = .rdhdr := by decide
theorem test_decode_decbody : decodeCmd 0b1010#64 = .decbody := by decide
theorem test_decode_compress : decodeCmd 0b1011#64 = .compress := by decide
theorem test_decode_decompress : decodeCmd 0b1100#64 = .decompress := by decide
theorem test_decode_clear : decodeCmd 0b1101#64 = .clear := by decide
theorem test_decode_illegal0 : decodeCmd 0b0000#64 = .illegal0 := by decide
theorem test_decode_illegalE : decodeCmd 0b1110#64 = .illegalE := by decide
theorem test_decode_illegalF : decodeCmd 0b1111#64 = .illegalF := by decide
/-- V-X12 and V-X15: a legal opcode with bit 4 set. -/
theorem test_decode_illegalDefault_low :
    decodeCmd 0b10001#64 = .illegalDefault 0x11#64 ∧ decodeCmd 0b10010#64 = .illegalDefault 0x12#64 := by decide
/-- V-X13: the highest bit set. -/
theorem test_decode_illegalDefault_high :
    decodeCmd 0x8000000000000001#64 = .illegalDefault 0x8000000000000001#64 := by decide
/-- R69: a first bit 0 is `HDR.NODE`, whatever follows. -/
theorem test_decode_hdrNode :
    decode 0#32 (.token (bitString [0, 1, 1])) = .ok (.hdrNode, bitString [1, 1]) := by decide
/-- V-RD9: the leaf of symbol 300 is `1 100101100`. -/
theorem test_decode_hdrLeaf :
    decode 0#32 (.token (bitString [1, 1, 0, 0, 1, 0, 1, 1, 0, 0, 0])) = .ok (.hdrLeaf 300#9, [false]) := by decide
/-- P1: the 32 bits of the magic. -/
theorem test_decode_fileMagic :
    decode 0xFACE8201#32 (.magicField (bitString
      [1, 1, 1, 1, 1, 0, 1, 0, 1, 1, 0, 0, 1, 1, 1, 0, 1, 0, 0, 0, 0, 0, 1, 0, 0, 0, 0, 0, 0, 0, 0, 1]))
      = .ok (.fileMagic, []) := by decide
/-- V-RD11, V-RD12: no bit, and a flag with seven bits after it. -/
theorem test_decode_truncated :
    decodeToken [] = .error .truncatedFlag ∧
    decodeToken (bitString [1, 0, 0, 0, 0, 0, 0, 0]) = .error .truncatedSymbol := by decide
/-- V-X1, V-X2: one magic bit flipped, and 24 bits. -/
theorem test_decode_badMagic :
    decodeMagic 0xFACE8201#32 (bitsOfBytes (byteList [0xFA, 0xCE, 0x82, 0x00])) = .error .badMagic ∧
    decodeMagic 0xFACE8201#32 (bitsOfBytes (byteList [0xFA, 0xCE, 0x82])) = .error .truncatedMagic := by decide

/-! ## The commands -/

/-- V-A3. -/
theorem test_analyze_counts : goesOn (exec .analyze (onBytes [0x41, 0x41, 0x42])) (fun t =>
    shows 0x00A 0 0 t && decide (t.freqAt 0x41 = 2#32 ∧ t.freqAt 0x42 = 1#32 ∧ t.freqAt 0x43 = 0#32 ∧
      t.freqAt 256 = 1#32 ∧ t.trace.length = 5)) = true := by decide +kernel
/-- V-A11: `COUNT_W = 2`, four times the same byte. -/
theorem test_analyze_overflows :
    goesOn (exec .analyze { onBytes [0x41, 0x41, 0x41, 0x41] with cfg := { Config.standard with countW := 2 } }) (fun t =>
      shows 0xF04 4 32 t && decide (t.freqAt 0x41 = 3#32 ∧ t.trace.length = 4)) = true := by decide +kernel

/-- V-B4. -/
theorem test_build_AAB : goesOn (exec .build (countedAAB State.reset)) (fun t =>
    shows 0x012 0 0 t && decide (infos 5 t = [0x083, 0x085, 0x201, 0x200400, 0x300000] ∧ t.treeWord.toNat = 0x1404 ∧
      (t.nodeAt 4#10).weight = 4#40)) = true := by decide +kernel
/-- V-B1: the degenerate case. -/
theorem test_build_degenerate :
    goesOn (exec .build { State.reset with freq := Vector.replicate 256 0#32, freqValid := true }) (fun t =>
      decide (infos 3 t = [0x201, 0x001, 0x100000] ∧ t.treeWord.toNat = 0xC02)) = true := by decide +kernel

/-- V-B4: the codes 0, 10, 11. -/
theorem test_gencodes_AAB : goesOn (exec .gencodes (builtAAB State.reset)) (fun t =>
    shows 0x052 0 0 t && decide (t.codeOf 0x41 = [false] ∧ t.codeOf 0x42 = [true, false] ∧ t.codeOf 256 = [true, true] ∧
      t.codeLenAt 0x43 = 0#9)) = true := by decide +kernel
/-- V-B12: a parsed tree gets no code table. -/
theorem test_gencodes_parsed :
    goesOn (exec .gencodes { builtAAB State.reset with treeOrigin := .parsed }) (shows 0xF04 9 0) = true := by
  decide +kernel

/-- V-X5. -/
theorem test_wrmagic : goesOn (exec .wrmagic State.reset) (fun t =>
    shows 0x002 0 0 t && wrote (bitsOfBytes (byteList [0xFA, 0xCE, 0x82, 0x01])) false t) = true := by decide +kernel

/-- V-H4: the header of "AAB" is `48 29 0B 00`. -/
theorem test_wrhdr_AAB : goesOn (exec .wrhdr (builtAAB State.reset)) (fun t =>
    shows 0x012 0 0 t && wrote (bitsOfBytes (byteList [0x48, 0x29, 0x0B, 0x00])) false t) = true := by decide +kernel

/-- V-E4: `0 0 10 11`. -/
theorem test_encbody_AAB : goesOn (exec .encbody (codedAAB (onBytes [0x41, 0x41, 0x42]))) (fun t =>
    shows 0x002 0 24 t && wrote (bitString [0, 0, 1, 0, 1, 1]) false t) = true := by decide +kernel
/-- V-E10: a word without a code. -/
theorem test_encbody_noCode : goesOn (exec .encbody (codedAAB (onBytes [0x41, 0x41, 0x43]))) (fun t =>
    shows 0xF04 5 24 t && wrote (bitString [0, 0]) false t) = true := by decide +kernel

/-- V-X6, with six bits for seventy. -/
theorem test_close_pads :
    goesOn (exec .close { State.reset with snk := { bits := bitString [0, 0, 1, 0, 1, 1], closed := false, answers := none } })
      (fun t => shows 0x002 0 0 t && wrote (bitString [0, 0, 1, 0, 1, 1, 0, 0]) true t) = true := by decide +kernel
/-- U6: a second close is refused. -/
theorem test_close_refused : refusalOf (exec .close { State.reset with snk := { State.reset.snk with closed := true } })
    = some .sinkClosed := by decide +kernel

/-- V-X4. -/
theorem test_rdmagic : goesOn (exec .rdmagic (onBytes [0xFA, 0xCE, 0x82, 0x01, 0x48])) (shows 0x002 0 32) = true := by
  decide +kernel
/-- V-X1 and V-X2. -/
theorem test_rdmagic_bad :
    goesOn (exec .rdmagic (onBytes [0xFA, 0xCE, 0x82, 0x00, 0x48])) (shows 0xF04 1 32) = true ∧
    goesOn (exec .rdmagic (onBytes [0xFA, 0xCE, 0x82])) (shows 0xF04 1 24) = true := by decide +kernel

/-- V-RD4 without the magic before it. -/
theorem test_rdhdr_AAB : goesOn (exec .rdhdr (onBytes [0x48, 0x29, 0x0B, 0x00, 0x2C])) (fun t =>
    shows 0x032 0 32 t && decide (infos 5 t = [0x200400, 0x083, 0x400C00, 0x085, 0x201] ∧ t.treeWord.toNat = 0x1400)) = true := by
  decide +kernel
/-- V-RD8, V-RD12, V-RD13 without the magic before them: `BadTree`, and `TruncatedHeader` twice. -/
theorem test_rdhdr_errors :
    goesOn (exec .rdhdr (onBytes [0x90, 0x40])) (shows 0xF04 7 10) = true ∧
    goesOn (exec .rdhdr (onBytes [0x80])) (shows 0xF04 2 8) = true ∧
    goesOn (exec .rdhdr (onBytes [0x48])) (shows 0xF04 2 8) = true := by decide +kernel

/-- V-D18: a built tree decodes, and both tables are discarded. -/
theorem test_decbody_built : goesOn (exec .decbody (codedAAB (onBytes [0x2C]))) (fun t =>
    shows 0x002 0 6 t && wrote (bitsOfBytes (byteList [0x41, 0x41, 0x42])) false t) = true := by decide +kernel
/-- V-D11: a body without a terminator. -/
theorem test_decbody_truncated : goesOn (exec .decbody (builtAAB (onBytes [0x00]))) (fun t =>
    shows 0xF04 3 8 t && wrote (bitsOfBytes (List.replicate 8 0x41#8)) false t) = true := by decide +kernel

/-- V-F1 and P1. -/
theorem test_compress_empty : goesOn (exec .compress State.reset) (fun t =>
    shows 0x002 0 0 t && wrote (bitsOfBytes (byteList [0xFA, 0xCE, 0x82, 0x01, 0x60, 0x10, 0x00])) true t &&
    decide (t.trace = [.srcRead 8 none, .srcReset, .sinkWrite 32 0xFACE8201#32, .sinkWrite 1 0#32, .sinkWrite 1 1#32,
      .sinkWrite 9 256#32, .sinkWrite 1 1#32, .sinkWrite 9 0#32, .srcRead 8 none, .sinkWrite 1 0#32, .sinkClose])) = true := by
  decide +kernel
/-- V-F8 and P2's form: "abracadabra". -/
theorem test_compress_abracadabra :
    goesOn (exec .compress (onBytes [0x61, 0x62, 0x72, 0x61, 0x63, 0x61, 0x64, 0x61, 0x62, 0x72, 0x61])) (fun t =>
      shows 0x002 0 88 t && wrote (bitsOfBytes (byteList [0xFA, 0xCE, 0x82, 0x01, 0x4C, 0x26, 0x01, 0x31, 0x27, 0x24, 0xC7,
        0x32, 0x2E, 0x73, 0xD7, 0x20])) true t) = true := by decide +kernel

/-- P3. -/
theorem test_decompress_AAB :
    goesOn (exec .decompress (onBytes [0xFA, 0xCE, 0x82, 0x01, 0x48, 0x29, 0x0B, 0x00, 0x2C])) (fun t =>
      shows 0x002 0 70 t && wrote (bitsOfBytes (byteList [0x41, 0x41, 0x42])) true t) = true := by decide +kernel
/-- P6. -/
theorem test_decompress_badMagic :
    goesOn (exec .decompress (onBytes [0xFA, 0xCE, 0x82, 0x00, 0x48, 0x29, 0x0B, 0x00, 0x2C])) (fun t =>
      shows 0xF04 1 32 t && decide (t.snk = State.reset.snk ∧ t.trace = [.srcRead 32 (some 0xFACE8200#32)])) = true := by
  decide +kernel

/-- V-X9: CLEAR returns from an error and leaves the streams. -/
theorem test_clear_returns :
    goesOn (exec .clear (raiseErr .truncatedBody { onBytes [0x41] with src := { (onBytes [0x41]).src with pos := 8 } }))
      (shows 0x000 0 8) = true := by decide +kernel

/-- V-X10, V-X11. -/
theorem test_illegal0 : goesOn (exec .illegal0 State.reset) (shows 0xF04 8 0) = true := by decide +kernel
theorem test_illegalE : goesOn (exec .illegalE State.reset) (shows 0xF04 8 0) = true := by decide +kernel
theorem test_illegalF : goesOn (exec .illegalF State.reset) (shows 0xF04 8 0) = true := by decide +kernel
/-- V-X15: `IllegalCmd` comes before `Sequence`. -/
theorem test_illegalDefault : goesOn (exec (.illegalDefault 0x12#64) State.reset) (shows 0xF04 8 0) = true := by
  decide +kernel

/-! ## The tokens -/

/-- R123, R15: a node token opens entry 0. -/
theorem test_hdrNode_read : goesOn (exec .hdrNode (rdhdrStart { onBits [false] with busy := true })) (fun t =>
    decide (t.nodeCount = 1#10 ∧ t.nodeAt 0#10 = internalNode 0#40 0#10 0#10 ∧ t.src.pos = 1 ∧ t.busy = true)) = true := by
  decide +kernel
/-- R115: a node token is the one bit 0. -/
theorem test_hdrNode_written : goesOn (exec .hdrNode (wrhdrStart { builtAAB State.reset with busy := true })) (fun t =>
    wrote [false] false t && decide (t.work.stk.map StkEntry.idx = [0#10, 3#10])) = true := by decide +kernel

/-- V-RD8: a header that is one leaf ends in `BadTree`. -/
theorem test_hdrLeaf_read :
    goesOn (exec (.hdrLeaf 0x41#9) (rdhdrStart { onBits (bitString [1, 0, 0, 1, 0, 0, 0, 0, 0, 1]) with busy := true }))
      (shows 0xF04 7 10) = true := by decide +kernel
/-- V-H4: the token of leaf 0x41 is `1 001000001`. -/
theorem test_hdrLeaf_written :
    goesOn (exec (.hdrLeaf 0x41#9) (inPhase .wrhdr ((builtAAB State.reset).setStk [pendingSubtree 0#10, pendingSubtree 3#10])))
      (fun t => wrote (bitString [1, 0, 0, 1, 0, 0, 0, 0, 0, 1]) false t) = true := by decide +kernel

/-- V-X4. -/
theorem test_fileMagic_read :
    goesOn (exec .fileMagic (inPhase .rdmagic (onBytes [0xFA, 0xCE, 0x82, 0x01]))) (shows 0x002 0 32) = true := by
  decide +kernel
/-- R69, R71: a token outside the phases that handle it is refused by name. -/
theorem test_token_outside :
    refusalOf (exec .fileMagic State.reset) = some .tokenOutsidePhase ∧
    refusalOf (exec .hdrNode State.reset) = some .tokenOutsidePhase ∧
    refusalOf (exec (.hdrLeaf 0#9) State.reset) = some .tokenOutsidePhase := by decide +kernel

/-! ## The register port, after BUILD and GENCODES of "AAB" (section 2.10 of the vectors) -/

/-- The value of a register read with a selector. -/
def reads (sel : Nat) (addr : BitVec 5) (v : Nat) : Bool :=
  goesOn (step (hostDoes (.read addr) { codedAAB State.reset with sel := BitVec.ofNat 10 sel }))
    fun t => decide (t.rdata.toNat = v)

theorem test_read_plain :
    reads 0 0x02#5 0 = true ∧ reads 0 0x03#5 0x1404 = true ∧ reads 0 0x0D#5 0xFACE8201 = true ∧ reads 0 0x00#5 0 = true ∧
    reads 0 0x0E#5 0 = true := by decide +kernel
theorem test_read_node :
    reads 4 0x06#5 0x300000 = true ∧ reads 4 0x07#5 4 = true ∧ reads 3 0x06#5 0x200400 = true ∧ reads 3 0x07#5 2 = true := by
  decide +kernel
theorem test_read_code :
    reads 0x42 0x08#5 2 = true ∧ reads 0x42 0x09#5 2 = true ∧ reads 256 0x08#5 2 = true ∧ reads 256 0x09#5 3 = true ∧
    reads 256 0x0C#5 0 = true ∧ reads 0x43 0x08#5 0 = true := by decide +kernel
/-- `WR SEL, 0x7FF` keeps ten bits. -/
theorem test_write_sel : goesOn (step (hostDoes (.write 0x04#5 0x7FF#64) State.reset)) (fun t => decide (t.sel = 0x3FF#10))
    = true := by decide +kernel
/-- The reads the vectors call unspecified give no value. -/
theorem test_read_undefined :
    regValue 0x05#5 (codedAAB State.reset) = none ∧ regValue 0x06#5 { codedAAB State.reset with sel := 5#10 } = none := by
  decide +kernel

/-! ## The host's words -/

/-- The rows of the opcode table run as the first step after reset: a command, a node token, a leaf token, the magic. -/
theorem test_withFetchWord :
    goesOn (step (State.reset.withFetchWord 64 0x4)) (fun t => wrote (msbBits 32 0xFACE8201#32) false t) = true ∧
    goesOn (step (State.reset.withFetchWord 8 0)) (fun t => decide (t.nodeCount = 1#10)) = true ∧
    goesOn (step (State.reset.withFetchWord 16 0x241)) (shows 0xF04 7 10) = true ∧
    goesOn (step (State.reset.withFetchWord 32 0xFACE8201)) (shows 0x002 0 32) = true := by decide +kernel

/-! ## Witnesses: the hypotheses of each obligation are met -/

/-- A CORE whose collaborators never answer. -/
def stalled (s : State) : State :=
  { s with src := { s.src with answers := some 0 }, snk := { s.snk with answers := some 0 } }

/-- A tree with `n` internal nodes, each the right child of the one before. -/
def comb (n : Nat) : Tree :=
  match n with
  | 0 => .leaf 256#9
  | n + 1 => .internal (.leaf 0x41#9) (comb n)

/-- A state whose sink is closed. -/
def closedSink (s : State) : State := { s with snk := { s.snk with closed := true } }

/-- V-D4: `0 0 10 11` decodes to "AAB". -/
theorem decodes_AAB (rest : List Bool) :
    treeAAB.Decodes (false :: false :: true :: false :: true :: true :: rest) (byteList [0x41, 0x41, 0x42]) rest :=
  .word (sym := 0x41#9) rfl (by decide)
    (.word (sym := 0x41#9) rfl (by decide) (.word (sym := 0x42#9) rfl (by decide) (.stop rfl)))

/-- A body that ends inside a code. -/
theorem runsOut_AA : treeAAB.RunsOut [false, false, true] (byteList [0x41, 0x41]) :=
  .word (sym := 0x41#9) rfl (by decide) (.word (sym := 0x41#9) rfl (by decide) (.stop rfl))

/-- Every byte's count is at most the number of words. -/
theorem counts_below {s : State} (h : s.words.length ≤ s.cfg.cmax) (x : BitVec 8) : s.words.count x ≤ s.cfg.cmax :=
  Nat.le_trans List.count_le_length h

theorem witness_DecodeInvertsEncode :
    WellFormed (.illegalDefault 0x10#64) = true ∧ WellFormed (.hdrLeaf 511#9) = true ∧ WellFormed .fileMagic = true := by decide

theorem witness_StepRunsTheCommandWritten :
    ∃ (s : State) (v : Reg) (rest : List HostAction), s.pending = .write cmdAddr v :: rest :=
  ⟨hostDoes (.write cmdAddr 0x1#64) State.reset, 0x1#64, [], rfl⟩

theorem witness_StepRunsTheNextTokenOrWaits :
    (∃ s : State, s.pending = [] ∧ s.busy = false) ∧
    (∃ (s : State) (i : Instr) (more : List Bool), s.pending = [] ∧ s.busy = true ∧ s.phase = .rdhdr ∧
      decodeToken s.src.rest = .ok (i, more)) ∧
    (∃ (s : State) (i : Instr) (more : List Bool), s.pending = [] ∧ s.busy = true ∧ s.phase = .rdmagic ∧
      decodeMagic s.cfg.magic s.src.rest = .ok (i, more)) ∧
    (∃ (s : State) (e : StkEntry) (stk : List StkEntry), s.pending = [] ∧ s.busy = true ∧ s.phase = .wrhdr ∧
      s.work.stk = e :: stk) ∧
    (∃ s : State, s.pending = [] ∧ s.busy = true ∧ s.phase = .wrmagic) :=
  ⟨⟨State.reset, rfl, rfl⟩,
   ⟨inPhase .rdhdr (onBits treeAAB.header), .hdrNode, treeAAB.header.tail, by decide +kernel⟩,
   ⟨inPhase .rdmagic (onBytes [0xFA, 0xCE, 0x82, 0x01]), .fileMagic, [], by decide +kernel⟩,
   ⟨wrhdrStart { builtAAB State.reset with busy := true }, pendingSubtree 4#10, [], rfl, rfl, rfl, rfl⟩,
   ⟨inPhase .wrmagic State.reset, rfl, rfl, rfl⟩⟩

theorem witness_ResetAndClearGiveTheResetState :
    (∃ (s : State) (rest : List HostAction), s.busy = true ∧ s.pending = .reset :: rest) ∧
    (∃ s : State, s.phase = .idle ∧ s.busy = false) ∧ (∃ s : State, s.phase = .error ∧ s.busy = false) :=
  ⟨⟨hostDoes .reset (inPhase .analyze State.reset), [], rfl, rfl⟩, ⟨builtAAB State.reset, rfl, rfl⟩,
   ⟨raiseErr .noCode State.reset, rfl, rfl⟩⟩

theorem witness_BusyCoreIgnoresCommands : ∃ (i : Instr) (s : State), isCommand i = true ∧ s.busy = true :=
  ⟨.clear, inPhase .analyze State.reset, rfl, rfl⟩

theorem witness_ErrorPhaseIgnoresAllButClear :
    ∃ s : State, s.phase = .error ∧
      (∃ (v : Reg) (rest : List HostAction), v ≠ 0xD#64 ∧ (hostDoes (.write cmdAddr v) s).pending = .write cmdAddr v :: rest) ∧
      (∃ (a : BitVec 5) (v : Reg), regValue a s = some v) :=
  ⟨raiseErr .noCode State.reset, rfl, ⟨0x1#64, [], by decide, rfl⟩, ⟨0x02#5, _, rfl⟩⟩

theorem witness_IllegalWordsRaiseIllegalCmd :
    ∃ s : State, s.isIdle ∧ ∀ v : Reg, (hostDoes (.write cmdAddr v) s).isIdle ∧
      (hostDoes (.write cmdAddr v) s).pending = .write cmdAddr v :: [] :=
  ⟨State.reset, ⟨rfl, rfl⟩, fun _ => ⟨⟨rfl, rfl⟩, rfl⟩⟩

theorem witness_IllegalWordsRaiseIllegalCmd_values :
    16 ≤ (0x10#64 : Reg).toNat ∧ (0x0#64 : Reg).toNat = 0 ∧ (0xE#64 : Reg).toNat = 14 ∧ (0xF#64 : Reg).toNat = 15 := by decide

theorem witness_MissingPrerequisiteRaisesSequence :
    (∃ s : State, s.isIdle ∧ s.freqValid = false) ∧
    (∃ s : State, s.isIdle ∧ s.treeValid = false ∧ s.codesValid = false) ∧
    (∃ s : State, s.isIdle ∧ s.treeValid = true ∧ s.treeOrigin = .parsed) :=
  ⟨⟨State.reset, ⟨rfl, rfl⟩, rfl⟩, ⟨State.reset, ⟨rfl, rfl⟩, rfl, rfl⟩,
   ⟨{ builtAAB State.reset with treeOrigin := .parsed }, ⟨rfl, rfl⟩, rfl, rfl⟩⟩

theorem witness_ErrorEntryClearsTheFlagsAndLeavesTheSinkOpen :
    ∃ (i : Instr) (s t : State), s.isIdle ∧ exec i s = .next t ∧ t.phase = .error := by
  obtain ⟨t, h, hp⟩ := goesOn_spec (o := exec .encbody (codedAAB (onBytes [0x41, 0x43])))
    (p := fun t => decide (t.phase = .error)) (by decide +kernel)
  exact ⟨_, _, t, ⟨rfl, rfl⟩, h, of_decide_eq_true hp⟩

theorem witness_CommandsRaiseOnlyTheirKinds :
    ∃ (i : Instr) (s t : State) (k : ErrKind), s.cfg.wf = true ∧ s.isIdle ∧ s.errCode = none ∧ isCommand i = true ∧
      exec i s = .next t ∧ t.errCode = some k := by
  obtain ⟨t, h, hp⟩ := goesOn_spec (o := exec .encbody (codedAAB (onBytes [0x41, 0x43])))
    (p := fun t => decide (t.errCode = some .noCode)) (by decide +kernel)
  exact ⟨_, _, t, .noCode, rfl, ⟨rfl, rfl⟩, rfl, rfl, h, of_decide_eq_true hp⟩

/-- A state with codes in which the host issues ENCBODY. -/
def encodingAAB : State := hostDoes (.write cmdAddr 0x6#64) (codedAAB (onBytes [0x41, 0x41, 0x42]))

theorem encodingAAB_runOk : encodingAAB.runOk = true := by decide +kernel

theorem witness_StepKeepsSequencerOk : ∃ s t : State, s.sequencerOk = true ∧ step s = .next t := by
  obtain ⟨t, h, -⟩ := goesOn_spec (o := step encodingAAB) (p := fun _ => true) (by decide +kernel)
  exact ⟨_, t, by decide +kernel, h⟩

theorem witness_StepKeepsRunOk : ∃ s t : State, s.runOk = true ∧ s.codesValid = true ∧ step s = .next t := by
  obtain ⟨t, h, -⟩ := goesOn_spec (o := step encodingAAB) (p := fun _ => true) (by decide +kernel)
  exact ⟨_, t, encodingAAB_runOk, rfl, h⟩

/-- A stalled command is a state of the invariant too. -/
theorem witness_StepKeepsRunOk_stalled : (stalled (inPhase .rdhdr State.reset)).runOk = true := by decide +kernel

theorem witness_StreamsAreReadAndAppendedOnly :
    (∃ s t : State, step s = .next t ∧ (∀ b p a rest, s.pending ≠ .openSource b p a :: rest) ∧
      (∀ b c a rest, s.pending ≠ .openSink b c a :: rest)) ∧
    (∃ s t : State, step s = .next t ∧ (∀ b c a rest, s.pending ≠ .openSink b c a :: rest) ∧ s.snk.closed = true) := by
  obtain ⟨t, h, -⟩ := goesOn_spec (o := step encodingAAB) (p := fun _ => true) (by decide +kernel)
  refine ⟨⟨_, t, h, fun b p a rest he => ?_, fun b c a rest he => ?_⟩,
    ⟨{ State.reset with snk := { State.reset.snk with closed := true } }, _, rfl, fun b c a rest he => ?_, rfl⟩⟩
  · exact absurd (List.cons.inj he).1 (by simp)
  · exact absurd (List.cons.inj he).1 (by simp)
  · exact absurd he (by simp [State.reset])

theorem witness_CommandsNeitherReadNorWriteTheSelector :
    ∃ (i : Instr) (s t : State), i ≠ .clear ∧ exec i s = .next t := by
  obtain ⟨t, h, -⟩ := goesOn_spec (o := exec .build (countedAAB State.reset)) (p := fun _ => true) (by decide +kernel)
  exact ⟨_, _, t, by decide, h⟩

theorem witness_StatusAndPlainRegistersRead :
    ∀ a : BitVec 5, ∃ (s : State) (rest : List HostAction), s.pending = .read a :: rest :=
  fun a => ⟨hostDoes (.read a) State.reset, [], rfl⟩

/-- The highest entry of each window that its clause reads. -/
theorem witness_DefinedWindowsShowTheTables :
    ∃ s u : State, s.busy = false ∧ s.treeValid = true ∧ s.codesValid = true ∧ s.sel.toNat ≤ 256 ∧
      ({ s with sel := 4#10 } : State).sel.toNat < s.nodeCount.toNat ∧
      u.busy = false ∧ u.freqValid = true ∧ u.sel.toNat ≤ 256 ∧
      ∀ a : BitVec 5, (hostDoes (.read a) s).pending = .read a :: [] ∧ (hostDoes (.read a) u).pending = .read a :: [] :=
  ⟨{ codedAAB State.reset with sel := 256#10 }, { countedAAB State.reset with sel := 256#10 },
    rfl, rfl, rfl, by decide, by decide, rfl, rfl, by decide, fun _ => ⟨rfl, rfl⟩⟩

theorem witness_UndefinedWindowsGiveAFreeValue :
    (∃ s : State, s.treeValid = false ∧ s.freqValid = false ∧ s.codesValid = false) ∧ (∃ s : State, s.busy = true) ∧
    (∃ s : State, s.busy = false ∧ s.freqValid = true ∧ 256 < s.sel.toNat) ∧
    (∃ s : State, s.busy = false ∧ s.treeValid = true ∧ s.nodeCount.toNat ≤ s.sel.toNat) ∧
    (∃ s : State, s.busy = false ∧ s.codesValid = true ∧ 256 < s.sel.toNat) ∧
    ∀ (a : BitVec 5) (s : State), (hostDoes (.read a) s).pending = .read a :: [] :=
  ⟨⟨State.reset, rfl, rfl, rfl⟩, ⟨inPhase .analyze State.reset, rfl⟩,
   ⟨{ countedAAB State.reset with sel := 257#10 }, rfl, rfl, by decide⟩,
   ⟨{ builtAAB State.reset with sel := 5#10 }, rfl, rfl, by decide⟩,
   ⟨{ codedAAB State.reset with sel := 257#10 }, rfl, rfl, by decide⟩, fun _ _ => rfl⟩

theorem witness_RegisterWritesReachOnlyTheSelector :
    (∃ (s : State) (v : Reg) (rest : List HostAction), s.pending = .write selAddr v :: rest) ∧
    (∃ (s : State) (a : BitVec 5) (v : Reg) (rest : List HostAction), s.pending = .write a v :: rest ∧ a ≠ selAddr ∧
      a ≠ cmdAddr) :=
  ⟨⟨hostDoes (.write selAddr 0x7FF#64) State.reset, _, [], rfl⟩,
   ⟨hostDoes (.write 0x1F#5 0x1#64) State.reset, 0x1F#5, _, [], rfl, by decide, by decide⟩⟩

theorem witness_ReadsGiveBackWhatWasWritten :
    (∃ (n : Nat) (v : BitVec 32) (s t u : State) (before after : List Bool), 1 ≤ n ∧ n ≤ 32 ∧ s.sinkReady ∧
      sinkWrite n v s = .ok () t ∧ u.sourceReady ∧ t.snk.bits = s.snk.bits ++ before ∧ u.src.rest = before ++ after) ∧
    (∃ tail : List Bool, tail.length < 8) :=
  ⟨⟨32, 0xFACE8201#32, State.reset, _, onBits (msbBits 32 0xFACE8201#32 ++ [true]), msbBits 32 0xFACE8201#32, [true],
    by decide, by decide, ⟨rfl, rfl⟩, rfl, rfl, rfl, rfl⟩, ⟨List.replicate 7 true, by decide⟩⟩

theorem witness_ClosePadsAndClosesTheSinkOnce :
    (∃ s : State, s.isIdle ∧ s.sinkReady) ∧ (∃ s : State, s.isIdle ∧ s.snk.closed = true ∧ s.treeValid = true) :=
  ⟨⟨State.reset, ⟨rfl, rfl⟩, ⟨rfl, rfl⟩⟩,
   ⟨{ builtAAB State.reset with snk := { State.reset.snk with closed := true } }, ⟨rfl, rfl⟩, rfl, rfl⟩⟩

/-- A closed sink before ENCBODY, DECBODY and COMPRESS of "AAB", and before DECOMPRESS of its stream. -/
theorem witness_ClosePadsAndClosesTheSinkOnce_closed :
    (∃ s : State, s.isIdle ∧ s.snk.closed = true ∧ s.sourceReady ∧ s.codesValid = true ∧
      (∀ x ∈ s.words, s.codeLenAt x.toNat ≠ 0#9) ∧ s.codeLenAt 256 ≠ 0#9 ∧ s.cfg.wf = true ∧
      ∀ x, s.words.count x ≤ s.cfg.cmax) ∧
    (∃ (s : State) (tr : Tree) (x : BitVec 8) (out : List (BitVec 8)) (more : List Bool), s.isIdle ∧ s.snk.closed = true ∧
      s.sourceReady ∧ s.treeValid = true ∧ s.tree = some tr ∧ tr.isInternal = true ∧ tr.Decodes s.src.rest (x :: out) more) ∧
    (∃ (s : State) (tr : Tree) (body more : List Bool) (out : List (BitVec 8)), s.isIdle ∧ s.snk.closed = true ∧ s.sourceReady ∧
      s.cfg.wf = true ∧ s.src.rest = msbBits 32 s.cfg.magic ++ tr.header ++ body ∧ tr.isInternal = true ∧
      tr.size ≤ s.cfg.nodeCap ∧ tr.Decodes body out more) :=
  ⟨⟨closedSink (codedAAB (onBytes [0x41, 0x41, 0x42])), ⟨rfl, rfl⟩, rfl, rfl, rfl, by decide +kernel, by decide +kernel, rfl,
    counts_below (by decide +kernel)⟩,
   ⟨closedSink (builtAAB (onBits [false, false, true, false, true, true, false])), treeAAB, 0x41#8, _, [false], ⟨rfl, rfl⟩, rfl,
    rfl, rfl, by decide +kernel, rfl, decodes_AAB [false]⟩,
   ⟨closedSink (onBits (msbBits 32 0xFACE8201#32 ++ treeAAB.header ++ [false, false, true, false, true, true, false])), treeAAB,
    _, [false], _, ⟨rfl, rfl⟩, rfl, rfl, rfl, rfl, rfl, by decide, decodes_AAB [false]⟩⟩

theorem witness_StalledCommandStaysBusyUntilReset :
    ∃ s : State, s.isIdle ∧ s.pending = [] ∧ s.src.answers = some 0 ∧ s.snk.closed = false ∧ s.snk.answers = some 0 :=
  ⟨stalled State.reset, ⟨rfl, rfl⟩, rfl, rfl, rfl, rfl⟩

/-- A valid tree with its codes, for WRHDR, ENCBODY and DECBODY. -/
theorem witness_StalledCommandStaysBusyUntilReset_tables :
    ∃ s : State, s.isIdle ∧ s.pending = [] ∧ s.src.answers = some 0 ∧ s.snk.closed = false ∧ s.snk.answers = some 0 ∧
      s.treeValid = true ∧ s.codesValid = true :=
  ⟨stalled (codedAAB State.reset), ⟨rfl, rfl⟩, rfl, rfl, rfl, rfl, rfl, rfl⟩

theorem witness_AnalyzeCountsTheWords :
    ∃ s : State, s.cfg.wf = true ∧ s.isIdle ∧ s.sourceReady ∧ s.words.length = 3 ∧ ∀ x, s.words.count x ≤ s.cfg.cmax :=
  ⟨onBytes [0x41, 0x41, 0x42], rfl, ⟨rfl, rfl⟩, rfl, rfl, counts_below (by decide +kernel)⟩

theorem witness_AnalyzeOverflowsAtCmax :
    ∃ (s : State) (before after : List (BitVec 8)) (x : BitVec 8), s.cfg.wf = true ∧ s.isIdle ∧ s.sourceReady ∧
      s.words = before ++ x :: after ∧ before.count x = s.cfg.cmax ∧ ∀ y, before.count y ≤ s.cfg.cmax :=
  ⟨{ onBytes [0x41, 0x41, 0x42] with cfg := { Config.standard with countW := 1 } }, [0x41#8], [0x42#8], 0x41#8, rfl,
    ⟨rfl, rfl⟩, rfl, by decide +kernel, by decide +kernel, fun y => List.count_le_length (a := y) (l := [0x41#8])⟩

theorem witness_QueueGivesTheLeastEntry :
    ∃ (x y e : QEntry) (s t : State), x.seq ≠ y.seq ∧ [x, y].Pairwise (fun x y => x.before y = true) ∧
      (∀ z ∈ [x, y], z.seq ≠ e.seq) ∧ s.pq.Pairwise (fun x y => x.before y = true) ∧ removeMin s = .ok x t :=
  ⟨⟨1#40, 66#10, 1#10⟩, ⟨1#40, 256#10, 2#10⟩, ⟨2#40, 65#10, 0#10⟩,
    { State.reset with pq := [⟨1#40, 66#10, 1#10⟩, ⟨1#40, 256#10, 2#10⟩] }, _, by decide, by decide, by decide, by decide, rfl⟩

theorem witness_BuildWrapsALoneLeaf :
    ∃ s : State, s.cfg.wf = true ∧ s.isIdle ∧ s.freqValid = true ∧ ∀ x : BitVec 8, s.freqAt x.toNat = 0#32 :=
  ⟨{ State.reset with freq := Vector.replicate 256 0#32, freqValid := true }, rfl, ⟨rfl, rfl⟩, rfl, fun x => by
    have hx : x.toNat < 256 := x.isLt
    simp [State.freqAt, hx]⟩

theorem countedAAB_positive : 2 ≤ (countedAAB State.reset).positive.length := by decide +kernel

theorem witness_BuildLaysOutTheArena :
    ∃ s : State, s.cfg.wf = true ∧ s.isIdle ∧ s.freqValid = true ∧ 2 ≤ s.positive.length :=
  ⟨countedAAB State.reset, rfl, ⟨rfl, rfl⟩, rfl, countedAAB_positive⟩

/-- For BuildAddsTheWeights and BuildMakesOneLeafPerSymbol, the ordinary case; with another state of the same counts, for
BuildDependsOnTheCountsOnly. -/
theorem witness_BuildDependsOnTheCountsOnly :
    ∃ s s' t t' : State, s.cfg = s'.cfg ∧ s.cfg.wf = true ∧ s.freq = s'.freq ∧ s.isIdle ∧ s'.isIdle ∧ s.freqValid = true ∧
      s'.freqValid = true ∧ exec .build s = .next t ∧ exec .build s' = .next t' ∧ s.sel ≠ s'.sel ∧ 2 ≤ s.positive.length := by
  obtain ⟨t, h, -⟩ := goesOn_spec (o := exec .build (countedAAB State.reset)) (p := fun _ => true) (by decide +kernel)
  obtain ⟨t', h', -⟩ := goesOn_spec (o := exec .build { countedAAB State.reset with sel := 7#10 }) (p := fun _ => true)
    (by decide +kernel)
  exact ⟨countedAAB State.reset, { countedAAB State.reset with sel := 7#10 }, t, t', rfl, rfl, rfl, ⟨rfl, rfl⟩, ⟨rfl, rfl⟩, rfl, rfl,
    h, h', by decide +kernel, countedAAB_positive⟩

theorem witness_BuildAddsTheWeights :
    ∃ s t : State, s.cfg.wf = true ∧ s.isIdle ∧ s.freqValid = true ∧ exec .build s = .next t ∧ 2 ≤ s.positive.length := by
  obtain ⟨s, _, t, _, -, hw, -, hi, -, hf, -, h, -, -, hp⟩ := witness_BuildDependsOnTheCountsOnly
  exact ⟨s, t, hw, hi, hf, h, hp⟩

/-- The degenerate case, for BuildAddsTheWeights and BuildMakesOneLeafPerSymbol. -/
theorem witness_BuildMakesOneLeafPerSymbol :
    ∃ s t : State, s.cfg.wf = true ∧ s.isIdle ∧ s.freqValid = true ∧ exec .build s = .next t ∧ s.positive.length = 1 := by
  obtain ⟨t, h, -⟩ := goesOn_spec
    (o := exec .build { State.reset with freq := Vector.replicate 256 0#32, freqValid := true }) (p := fun _ => true)
    (by decide +kernel)
  exact ⟨_, t, rfl, ⟨rfl, rfl⟩, rfl, h, by decide +kernel⟩

theorem witness_BuildAndGencodesFrame :
    (∃ s t : State, exec .build s = .next t ∧ t.treeValid = true) ∧
    (∃ s t : State, exec .gencodes s = .next t ∧ t.codesValid = true) := by
  obtain ⟨t, h, hp⟩ := goesOn_spec (o := exec .build (countedAAB State.reset)) (p := State.treeValid) (by decide +kernel)
  obtain ⟨u, h', hp'⟩ := goesOn_spec (o := exec .gencodes (builtAAB State.reset)) (p := State.codesValid) (by decide +kernel)
  exact ⟨⟨_, t, h, hp⟩, ⟨_, u, h', hp'⟩⟩

theorem builtAAB_tree : (builtAAB State.reset).tree = some treeAAB := by decide +kernel

theorem witness_GencodesRecordsThePaths :
    ∃ (s : State) (tr : Tree), s.isIdle ∧ s.treeValid = true ∧ s.treeOrigin = .built ∧ s.tree = some tr ∧ tr.leaves.Nodup ∧
      ∀ x ∈ tr.leaves, x.toNat ≤ 256 :=
  ⟨builtAAB State.reset, treeAAB, ⟨rfl, rfl⟩, rfl, rfl, builtAAB_tree, by decide, by decide⟩

theorem witness_ValidCodesArePrefixFree : ∃ s : State, s.runOk = true ∧ s.codesValid = true :=
  ⟨encodingAAB, encodingAAB_runOk, rfl⟩

theorem witness_ValidCodesAreComplete :
    ∃ s : State, s.runOk = true ∧ s.codesValid = true ∧ s.codeLenAt 0x41 ≠ 0#9 ∧ s.codeLenAt 0x42 ≠ 0#9 :=
  ⟨encodingAAB, encodingAAB_runOk, rfl, by decide +kernel, by decide +kernel⟩

theorem witness_WrhdrWritesTheHeader :
    ∃ (s : State) (tr : Tree), s.isIdle ∧ s.sinkReady ∧ s.treeValid = true ∧ s.tree = some tr ∧ tr.size ≤ 1023 :=
  ⟨builtAAB State.reset, treeAAB, ⟨rfl, rfl⟩, ⟨rfl, rfl⟩, rfl, builtAAB_tree, by decide⟩

theorem witness_RdhdrReadsTheHeader :
    ∃ (s : State) (tr : Tree) (more : List Bool), s.cfg.wf = true ∧ s.isIdle ∧ s.sourceReady ∧
      s.src.rest = tr.header ++ more ∧ tr.isInternal = true ∧ tr.size ≤ s.cfg.nodeCap :=
  ⟨onBits (treeAAB.header ++ [true]), treeAAB, [true], rfl, ⟨rfl, rfl⟩, rfl, rfl, rfl, by decide⟩

theorem witness_RdhdrConsumesExactlyAHeader :
    ∃ s t : State, s.cfg.wf = true ∧ s.isIdle ∧ exec .rdhdr s = .next t ∧ t.phase = .idle := by
  obtain ⟨t, h, hp⟩ := goesOn_spec (o := exec .rdhdr (onBits (treeAAB.header ++ [true])))
    (p := fun t => decide (t.phase = .idle)) (by decide +kernel)
  exact ⟨_, t, rfl, ⟨rfl, rfl⟩, h, of_decide_eq_true hp⟩

/-- A header one bit short, one node above a capacity of 513, and a lone leaf. -/
theorem witness_RdhdrErrors :
    (∃ (s : State) (tr : Tree) (more : List Bool), s.cfg.wf = true ∧ s.isIdle ∧ s.sourceReady ∧ tr.size ≤ s.cfg.nodeCap ∧
      tr.header = s.src.rest ++ more ∧ more ≠ []) ∧
    (∃ (s : State) (tr : Tree) (more : List Bool), s.cfg.wf = true ∧ s.isIdle ∧ s.sourceReady ∧ s.cfg.nodeCap < tr.size ∧
      s.src.rest = tr.header ++ more) ∧
    (∃ (s : State) (sym : Sym) (more : List Bool), s.cfg.wf = true ∧ s.isIdle ∧ s.sourceReady ∧
      s.src.rest = (Tree.leaf sym).header ++ more) :=
  ⟨⟨onBits treeAAB.header.dropLast, treeAAB, [false], rfl, ⟨rfl, rfl⟩, rfl, by decide, by decide, by decide⟩,
   ⟨{ onBits (comb 257).header with cfg := { Config.standard with nodeCap := 513 } }, comb 257, [], rfl, ⟨rfl, rfl⟩, rfl,
    by decide +kernel, by rw [List.append_nil]; rfl⟩,
   ⟨onBits (Tree.leaf 0x41#9).header, 0x41#9, [], rfl, ⟨rfl, rfl⟩, rfl, rfl⟩⟩

/-- A capacity of 513 nodes and the first bits of a header of 515. -/
def shortComb (n : Nat) : State :=
  { onBits ((comb 257).header.take n) with cfg := { Config.standard with nodeCap := 513 } }

theorem shortComb_rest (n : Nat) : (shortComb n).src.rest = (comb 257).header.take n := rfl

theorem comb_split (n : Nat) : (comb 257).header = (shortComb n).src.rest ++ (comb 257).header.drop n := by
  rw [shortComb_rest, List.take_append_drop]

/-- A header of 515 nodes and a capacity of 513: a source that ends before the flag bit of node number 513 (as V-RD17) and one
that ends after it (as V-RD16). -/
theorem witness_RdhdrErrors_ends :
    (∃ (s : State) (tr : Tree) (more : List Bool), s.cfg.wf = true ∧ s.isIdle ∧ s.sourceReady ∧ s.cfg.nodeCap < tr.size ∧
      s.src.rest.length = tr.bitsBefore s.cfg.nodeCap ∧ tr.header = s.src.rest ++ more ∧ more ≠ []) ∧
    (∃ (s : State) (tr : Tree) (more : List Bool), s.cfg.wf = true ∧ s.isIdle ∧ s.sourceReady ∧ s.cfg.nodeCap < tr.size ∧
      tr.header = s.src.rest ++ more ∧ s.src.rest.length = tr.bitsBefore s.cfg.nodeCap + 1) :=
  ⟨⟨shortComb ((comb 257).bitsBefore 513), comb 257, (comb 257).header.drop ((comb 257).bitsBefore 513), rfl, ⟨rfl, rfl⟩, rfl,
    by decide +kernel, by decide +kernel, comb_split _, by decide +kernel⟩,
   ⟨shortComb ((comb 257).bitsBefore 513 + 1), comb 257, (comb 257).header.drop ((comb 257).bitsBefore 513 + 1), rfl,
    ⟨rfl, rfl⟩, rfl, by decide +kernel, comb_split _, by decide +kernel⟩⟩

theorem witness_ReadingFrames :
    (∃ s t : State, exec .analyze s = .next t ∧ t.freqValid = true) ∧
    (∃ s t : State, exec .rdmagic s = .next t ∧ t.done = true) ∧
    (∃ s t : State, exec .rdhdr s = .next t ∧ t.treeValid = true) := by
  obtain ⟨t, h, hp⟩ := goesOn_spec (o := exec .analyze (onBytes [0x41])) (p := State.freqValid) (by decide +kernel)
  obtain ⟨u, h', hp'⟩ := goesOn_spec (o := exec .rdmagic (onBytes [0xFA, 0xCE, 0x82, 0x01])) (p := State.done)
    (by decide +kernel)
  obtain ⟨v, h'', hp''⟩ := goesOn_spec (o := exec .rdhdr (onBits treeAAB.header)) (p := State.treeValid) (by decide +kernel)
  exact ⟨⟨_, t, h, hp⟩, ⟨_, u, h', hp'⟩, ⟨_, v, h'', hp''⟩⟩

theorem witness_WritingFrames :
    (∃ s t : State, exec .wrmagic s = .next t ∧ t.done = true) ∧ (∃ s t : State, exec .wrhdr s = .next t ∧ t.done = true) ∧
    (∃ s t : State, exec .close s = .next t ∧ t.done = true) := by
  obtain ⟨t, h, hp⟩ := goesOn_spec (o := exec .wrmagic State.reset) (p := State.done) (by decide +kernel)
  obtain ⟨u, h', hp'⟩ := goesOn_spec (o := exec .wrhdr (builtAAB State.reset)) (p := State.done) (by decide +kernel)
  obtain ⟨v, h'', hp''⟩ := goesOn_spec (o := exec .close State.reset) (p := State.done) (by decide +kernel)
  exact ⟨⟨_, t, h, hp⟩, ⟨_, u, h', hp'⟩, ⟨_, v, h'', hp''⟩⟩

theorem witness_HeaderCommandsAreTheirTokens :
    (∃ s : State, s.cfg.wf = true ∧ s.isIdle ∧ s.pending = []) ∧
    (∃ (s : State) (tr : Tree), s.isIdle ∧ s.pending = [] ∧ s.treeValid = true ∧ s.tree = some tr ∧ tr.size ≤ 1023) :=
  ⟨⟨onBits treeAAB.header, rfl, ⟨rfl, rfl⟩, rfl⟩,
   ⟨builtAAB State.reset, treeAAB, ⟨rfl, rfl⟩, rfl, rfl, builtAAB_tree, by decide⟩⟩

theorem witness_HeaderTokensComplete :
    (∃ (s : State) (bits : List Bool), s.phase = .rdhdr ∧ s.sourceReady ∧ s.src.rest = false :: bits ∧
      s.nodeCount.toNat < s.cfg.nodeCap ∧ s.cfg.nodeCap < 1024) ∧
    (∃ (s : State) (e : StkEntry) (stk : List StkEntry), s.phase = .wrhdr ∧ s.sinkReady ∧ s.work.stk = e :: stk) ∧
    (∃ (s : State) (sym : Sym) (bits : List Bool) (p : Idx) (stk : List StkEntry), s.phase = .rdhdr ∧ s.sourceReady ∧
      s.src.rest = true :: msbBits 9 sym ++ bits ∧ s.nodeCount.toNat < s.cfg.nodeCap ∧ s.cfg.nodeCap < 1024 ∧
      s.work.stk = { idx := p, leftDone := false } :: stk ∧ p ≠ s.nodeCount) ∧
    (∃ (s : State) (e e' : StkEntry) (stk : List StkEntry), s.phase = .wrhdr ∧ s.sinkReady ∧ s.work.stk = e :: e' :: stk) :=
  ⟨⟨{ rdhdrStart (onBits [false]) with nodeCount := 1022#10 }, [], rfl, rfl, rfl, by decide, by decide⟩,
   ⟨wrhdrStart (builtAAB State.reset), pendingSubtree 4#10, [], rfl, ⟨rfl, rfl⟩, rfl⟩,
   ⟨{ (rdhdrStart (onBits (true :: msbBits 9 511#9))).setStk [{ idx := 0#10, leftDone := false }] with
       nodeCount := 1#10 }, 511#9, [], 0#10, [], rfl, rfl, rfl, by decide, by decide, rfl, by decide⟩,
   ⟨(wrhdrStart (builtAAB State.reset)).setStk [pendingSubtree 0#10, pendingSubtree 3#10], _, _, [], rfl, ⟨rfl, rfl⟩, rfl⟩⟩

theorem witness_EncbodyWritesTheCodes :
    ∃ s : State, s.isIdle ∧ s.sourceReady ∧ s.sinkReady ∧ s.codesValid = true ∧ s.words = byteList [0x41, 0x41, 0x42] ∧
      ∀ x ∈ s.words, s.codeLenAt x.toNat ≠ 0#9 :=
  ⟨codedAAB (onBytes [0x41, 0x41, 0x42]), ⟨rfl, rfl⟩, rfl, ⟨rfl, rfl⟩, rfl, by decide +kernel, by decide +kernel⟩

theorem witness_EncbodyStopsAtAWordWithoutACode :
    ∃ (s : State) (before after : List (BitVec 8)) (x : BitVec 8), s.isIdle ∧ s.sourceReady ∧ s.sinkReady ∧
      s.codesValid = true ∧ s.words = before ++ x :: after ∧ s.codeLenAt x.toNat = 0#9 ∧
      ∀ y ∈ before, s.codeLenAt y.toNat ≠ 0#9 :=
  ⟨codedAAB (onBytes [0x41, 0x41, 0x43]), byteList [0x41, 0x41], [], 0x43#8, ⟨rfl, rfl⟩, rfl, ⟨rfl, rfl⟩, rfl,
    by decide +kernel, by decide +kernel, by decide +kernel⟩

theorem witness_DecbodyWritesTheDecodedBytes :
    ∃ (s : State) (tr : Tree) (out : List (BitVec 8)) (more : List Bool), s.isIdle ∧ s.sourceReady ∧ s.sinkReady ∧
      s.treeValid = true ∧ s.tree = some tr ∧ tr.isInternal = true ∧ tr.Decodes s.src.rest out more :=
  ⟨builtAAB (onBits [false, false, true, false, true, true, false]), treeAAB, _, [false], ⟨rfl, rfl⟩, rfl, ⟨rfl, rfl⟩, rfl,
    by decide +kernel, rfl, decodes_AAB [false]⟩

theorem witness_DecbodyEndsOrRunsOut :
    ∃ (s : State) (tr : Tree) (out : List (BitVec 8)), s.isIdle ∧ s.sourceReady ∧ s.sinkReady ∧ s.treeValid = true ∧
      s.tree = some tr ∧ tr.isInternal = true ∧ tr.RunsOut s.src.rest out :=
  ⟨builtAAB (onBits [false, false, true]), treeAAB, _, ⟨rfl, rfl⟩, rfl, ⟨rfl, rfl⟩, rfl, by decide +kernel, rfl, runsOut_AA⟩

theorem witness_BodyFrames :
    (∃ s t : State, exec .encbody s = .next t ∧ t.done = true) ∧
    (∃ s t : State, exec .decbody s = .next t ∧ t.done = true) := by
  obtain ⟨t, h, hp⟩ := goesOn_spec (o := exec .encbody (codedAAB (onBytes [0x41]))) (p := State.done) (by decide +kernel)
  obtain ⟨u, h', hp'⟩ := goesOn_spec (o := exec .decbody (builtAAB (onBytes [0x2C]))) (p := State.done) (by decide +kernel)
  exact ⟨⟨_, t, h, hp⟩, ⟨_, u, h', hp'⟩⟩

theorem witness_WrmagicWritesTheMagic : ∃ s : State, s.isIdle ∧ s.sinkReady := ⟨State.reset, ⟨rfl, rfl⟩, ⟨rfl, rfl⟩⟩

/-- The magic, the magic with its last bit flipped, and 31 bits. -/
theorem witness_RdmagicAcceptsOnlyTheMagic :
    (∃ (s : State) (more : List Bool), s.isIdle ∧ s.sourceReady ∧ s.src.rest = msbBits 32 s.cfg.magic ++ more) ∧
    (∃ (s : State) (v : BitVec 32) (more : List Bool), s.isIdle ∧ s.sourceReady ∧ v ≠ s.cfg.magic ∧
      s.src.rest = msbBits 32 v ++ more) ∧
    (∃ s : State, s.isIdle ∧ s.sourceReady ∧ s.src.rest.length = 31) :=
  ⟨⟨onBits (msbBits 32 0xFACE8201#32 ++ []), [], ⟨rfl, rfl⟩, rfl, rfl⟩,
   ⟨onBits (msbBits 32 0xFACE8200#32 ++ []), 0xFACE8200#32, [], ⟨rfl, rfl⟩, rfl, by decide, rfl⟩,
   ⟨onBits (List.replicate 31 true), ⟨rfl, rfl⟩, rfl, rfl⟩⟩

theorem witness_MagicFieldCompletes :
    (∃ (s : State) (more : List Bool), s.phase = .rdmagic ∧ s.work.macroCmd = noMacro ∧ s.sourceReady ∧
      s.src.rest = msbBits 32 s.cfg.magic ++ more) ∧
    (∃ s : State, s.phase = .wrmagic ∧ s.work.macroCmd = noMacro ∧ s.sinkReady) ∧
    (∃ s : State, s.phase ≠ .rdmagic ∧ s.phase ≠ .wrmagic ∧ s.phase ≠ .rdhdr ∧ s.phase ≠ .wrhdr) :=
  ⟨⟨inPhase .rdmagic (onBits (msbBits 32 0xFACE8201#32 ++ [])), [], rfl, rfl, rfl, rfl⟩,
   ⟨inPhase .wrmagic State.reset, rfl, rfl, ⟨rfl, rfl⟩⟩, ⟨State.reset, by decide, by decide, by decide, by decide⟩⟩

/-- Each kind of token inside its macro command. -/
theorem witness_MagicFieldCompletes_macro :
    (∃ s : State, s.busy = true ∧ s.done = false ∧ s.phase = .rdmagic ∧ s.work.macroCmd = decompressMacro) ∧
    (∃ s : State, s.busy = true ∧ s.done = false ∧ s.phase = .wrmagic ∧ s.work.macroCmd = compressMacro ∧
      s.treeValid = true ∧ s.codesValid = true) ∧
    (∃ s : State, s.busy = true ∧ s.done = false ∧ s.phase = .rdhdr ∧ s.work.macroCmd = decompressMacro) ∧
    (∃ s : State, s.busy = true ∧ s.done = false ∧ s.phase = .wrhdr ∧ s.work.macroCmd = compressMacro ∧
      s.codesValid = true) :=
  ⟨⟨{ State.reset.start decompressMacro with phase := .rdmagic }, rfl, rfl, rfl, rfl⟩,
   ⟨{ (codedAAB State.reset).start compressMacro with phase := .wrmagic }, rfl, rfl, rfl, rfl, rfl, rfl⟩,
   ⟨rdhdrStart (State.reset.start decompressMacro), rfl, rfl, rfl, rfl⟩,
   ⟨wrhdrStart ((codedAAB State.reset).start compressMacro), rfl, rfl, rfl, rfl, rfl⟩⟩

/-- For CompressIsItsExpansion and DecompressIsItsExpansion: states in which each goes on to its end. -/
theorem witness_CompressIsItsExpansion :
    (∃ s t : State, s.cfg.wf = true ∧ s.isIdle ∧ exec .compress s = .next t ∧ t.done = true) ∧
    (∃ s t : State, s.cfg.wf = true ∧ s.isIdle ∧ exec .decompress s = .next t ∧ t.done = true) := by
  obtain ⟨t, h, hp⟩ := goesOn_spec (o := exec .compress (onBytes [0x41])) (p := State.done) (by decide +kernel)
  obtain ⟨u, h', hp'⟩ := goesOn_spec (o := exec .decompress (onBytes [0xFA, 0xCE, 0x82, 0x01, 0x48, 0x38, 0x02]))
    (p := State.done) (by decide +kernel)
  exact ⟨⟨_, t, rfl, ⟨rfl, rfl⟩, h, hp⟩, ⟨_, u, rfl, ⟨rfl, rfl⟩, h', hp'⟩⟩

theorem witness_DecompressIsItsExpansion :
    ∃ s t : State, s.cfg.wf = true ∧ s.isIdle ∧ exec .decompress s = .next t ∧ t.done = true :=
  witness_CompressIsItsExpansion.2

theorem witness_MacroCommandFrames :
    (∃ s t : State, exec .compress s = .next t) ∧ (∃ s t : State, exec .decompress s = .next t) := by
  obtain ⟨⟨s, t, -, -, h, -⟩, ⟨u, v, -, -, h', -⟩⟩ := witness_CompressIsItsExpansion
  exact ⟨⟨s, t, h⟩, ⟨u, v, h'⟩⟩

/-- V-B4, merge 0: `node[3]` is made of B and EOS, in that order. -/
theorem test_build_merge :
    goesOn (exec .build (countedAAB State.reset)) (fun t =>
      decide ((t.entryOf 3 1#10).before (t.entryOf 3 2#10) = true ∧ (t.entryOf 3 2#10).before (t.entryOf 3 0#10) = true ∧
        (t.nodeAt 3#10).left = 1#10 ∧ (t.nodeAt 3#10).right = 2#10 ∧ (t.entryOf 3 3#10).seq = 257#10)) = true := by
  decide +kernel

theorem witness_CompressWritesTheFile :
    ∃ s : State, s.cfg.wf = true ∧ s.isIdle ∧ s.sourceReady ∧ s.sinkReady ∧ s.src.pos = 0 ∧ s.words.length = 3 ∧
      ∀ x, s.words.count x ≤ s.cfg.cmax :=
  ⟨onBytes [0x41, 0x41, 0x42], rfl, ⟨rfl, rfl⟩, rfl, ⟨rfl, rfl⟩, rfl, rfl, counts_below (by decide +kernel)⟩

theorem witness_DecompressReadsAFile :
    ∃ (s : State) (tr : Tree) (body more : List Bool) (out : List (BitVec 8)), s.cfg.wf = true ∧ s.isIdle ∧ s.sourceReady ∧
      s.sinkReady ∧ s.src.rest = msbBits 32 s.cfg.magic ++ tr.header ++ body ∧ tr.isInternal = true ∧
      tr.size ≤ s.cfg.nodeCap ∧ tr.Decodes body out more :=
  ⟨onBits (msbBits 32 0xFACE8201#32 ++ treeAAB.header ++ [false, false, true, false, true, true, false]), treeAAB, _, [false],
    _, rfl, ⟨rfl, rfl⟩, rfl, ⟨rfl, rfl⟩, rfl, rfl, by decide, decodes_AAB [false]⟩

theorem witness_RoundTrip :
    ∃ (xs : List (BitVec 8)) (s t d : State), s.cfg.wf = true ∧ d.cfg.wf = true ∧ d.cfg.magic = s.cfg.magic ∧
      s.isIdle ∧ s.sourceReady ∧ s.sinkReady ∧ s.src.bits = bitsOfBytes xs ∧ s.src.pos = 0 ∧ s.snk.bits = [] ∧
      (∀ x, xs.count x ≤ s.cfg.cmax) ∧ exec .compress s = .next t ∧
      d.isIdle ∧ d.sourceReady ∧ d.sinkReady ∧ d.src.bits = t.snk.bits ∧ d.src.pos = 0 ∧ d.snk.bits = [] ∧ xs.length = 3 := by
  obtain ⟨t, h, -⟩ := goesOn_spec (o := exec .compress (onBytes [0x41, 0x41, 0x42])) (p := fun _ => true) (by decide +kernel)
  refine ⟨byteList [0x41, 0x41, 0x42], onBytes [0x41, 0x41, 0x42], t, onBits t.snk.bits, rfl, rfl, rfl, ⟨rfl, rfl⟩, rfl, ⟨rfl, rfl⟩, rfl, rfl, rfl,
    fun x => Nat.le_trans List.count_le_length (by decide +kernel), h, ⟨rfl, rfl⟩, rfl, ⟨rfl, rfl⟩, rfl, rfl, rfl, rfl⟩

theorem witness_DecompressErrors :
    (∃ (s : State) (v : BitVec 32) (more : List Bool), s.cfg.wf = true ∧ s.isIdle ∧ s.sourceReady ∧ s.sinkReady ∧
      v ≠ s.cfg.magic ∧ s.src.rest = msbBits 32 v ++ more) ∧
    (∃ (s : State) (tr : Tree) (cut more : List Bool), s.cfg.wf = true ∧ s.isIdle ∧ s.sourceReady ∧ s.sinkReady ∧
      tr.size ≤ s.cfg.nodeCap ∧ tr.header = cut ++ more ∧ more ≠ [] ∧ s.src.rest = msbBits 32 s.cfg.magic ++ cut) ∧
    (∃ (s : State) (tr : Tree) (body : List Bool) (out : List (BitVec 8)), s.cfg.wf = true ∧ s.isIdle ∧ s.sourceReady ∧
      s.sinkReady ∧ tr.isInternal = true ∧ tr.size ≤ s.cfg.nodeCap ∧
      s.src.rest = msbBits 32 s.cfg.magic ++ tr.header ++ body ∧ tr.RunsOut body out) :=
  ⟨⟨onBits (msbBits 32 0xFACE8200#32 ++ []), 0xFACE8200#32, [], rfl, ⟨rfl, rfl⟩, rfl, ⟨rfl, rfl⟩, by decide, rfl⟩,
   ⟨onBits (msbBits 32 0xFACE8201#32 ++ treeAAB.header.dropLast), treeAAB, treeAAB.header.dropLast, [false], rfl, ⟨rfl, rfl⟩,
    rfl, ⟨rfl, rfl⟩, by decide, by decide, by decide, rfl⟩,
   ⟨onBits (msbBits 32 0xFACE8201#32 ++ treeAAB.header ++ [false, false, true]), treeAAB, _, _, rfl, ⟨rfl, rfl⟩, rfl,
    ⟨rfl, rfl⟩, rfl, by decide, rfl, runsOut_AA⟩⟩

end Sys2Proof.Tests
end

section
/-!
PROOF of O14 (StepKeepsRunOk): every step keeps the invariant of a run.

`Res.Safe Q r` is the judgement that the development turns on: where the part `r` of a command goes on, `Q` holds; where it
stalls or raises an error, the machine's next state keeps the invariant. Each body is followed with it from the start of its command:
the bodies that leave the arena alone with `State.RunningIn`, BUILD with a forest in the arena (`State.Grove`), GENCODES along
the tree that the arena holds (`State.WalkedTo`), RDHDR with its open nodes (`State.BeforeToken`, `State.AfterToken`).
-/
namespace Sys2Proof.Machine

/-! ## The parts of the run invariant -/

theorem runOk_iff {s : State} : s.runOk = true ↔
    s.cfg.wf = true ∧ s.sequencerOk = true ∧ s.atomicOk = true ∧ s.arenaOk = true ∧ s.codesOk = true ∧
      Memory.wf s = true ∧ s.pq = [] := by
  simp [State.runOk, and_assoc]

theorem arenaOk_of_invalid {s : State} (h : s.treeValid = false) : s.arenaOk = true := by simp [State.arenaOk, h]

theorem codesOk_of_invalid {s : State} (h : s.codesValid = false) : s.codesOk = true := by simp [State.codesOk, h]

/-- `t` has the arena of `s`, with the same registers that speak of it. -/
structure State.SameArena (s t : State) : Prop where
  cfg : t.cfg = s.cfg
  treeValid : t.treeValid = s.treeValid
  treeOrigin : t.treeOrigin = s.treeOrigin
  node : t.node = s.node
  nodeCount : t.nodeCount = s.nodeCount
  root : t.root = s.root

theorem nodeAt_congr {s t : State} (h : t.node = s.node) (i : Idx) : t.nodeAt i = s.nodeAt i := by
  simp only [State.nodeAt, h]

theorem treeAt_congr {s t : State} (h : t.node = s.node) (b : Nat) (i : Idx) : treeAt b t i = treeAt b s i := by
  induction b generalizing i with
  | zero => rfl
  | succ b ih => simp only [treeAt, nodeAt_congr h, ih]

theorem indicesAt_congr {s t : State} (h : t.node = s.node) (b : Nat) (i : Idx) :
    indicesAt b t i = indicesAt b s i := by
  induction b generalizing i with
  | zero => rfl
  | succ b ih => simp only [indicesAt, nodeAt_congr h, ih]

theorem State.SameArena.tree {s t : State} (h : s.SameArena t) : t.tree = s.tree := by
  rw [State.tree, State.tree, h.root, treeAt_congr h.node]

theorem State.SameArena.arenaOk {s t : State} (h : s.SameArena t) : t.arenaOk = s.arenaOk := by
  simp only [State.arenaOk, h.tree, h.treeValid, h.treeOrigin, h.nodeCount, h.root, h.cfg, indicesAt_congr h.node]

/-- `t` has the tables of `s` and an equal queue: it may differ in the counters, the streams, the selector, the cursor and the
working registers. -/
structure State.SameTables (s t : State) : Prop extends s.SameArena t where
  codesValid : t.codesValid = s.codesValid
  codeLen : t.codeLen = s.codeLen
  codeBits : t.codeBits = s.codeBits
  pq : t.pq = s.pq

theorem State.SameTables.codeOf {s t : State} (h : s.SameTables t) (x : Nat) : t.codeOf x = s.codeOf x := by
  simp only [State.codeOf, State.codeLenAt, State.codeBitsAt, h.codeLen, h.codeBits]

theorem State.SameTables.codesOk {s t : State} (h : s.SameTables t) : t.codesOk = s.codesOk := by
  simp only [State.codesOk, h.tree, h.codesValid, h.codeOf]

/-- `t` differs from `s` at most in the counters, the streams, the host port, the cursor and the working registers, and its
streams have their form if those of `s` do: what every stream primitive and every step of the analyzer, of the header writer
and of the body commands changes. -/
structure State.Quiet (s t : State) : Prop extends s.SameTables t where
  phase : t.phase = s.phase
  errCode : t.errCode = s.errCode
  busy : t.busy = s.busy
  done : t.done = s.done
  streams : Memory.wf s = true → Memory.wf t = true

/-! ## A CORE inside a command -/

/-- The sequencer's registers while a command runs, whatever its phase (R11 to R13, R153). -/
structure State.CommandOk (s : State) : Prop where
  cfgWf : s.cfg.wf = true
  busy : s.busy = true
  done : s.done = false
  noError : s.errCode = none
  streams : Memory.wf s = true

/-- What holds inside a command wherever it may stall and where it ends: the tables are consistent, the queue is empty. -/
structure State.RunningOk (s : State) : Prop extends s.CommandOk where
  codesBuilt : s.codesValid = true → s.treeValid = true ∧ s.treeOrigin = .built
  arena : s.arenaOk = true
  codes : s.codesOk = true
  queue : s.pq = []

/-- What holds inside a command that has discarded the tree and the codes. -/
structure State.TablesHidden (s : State) : Prop extends s.CommandOk where
  noTree : s.treeValid = false
  noCodes : s.codesValid = false

/-- A command in a phase of its own. -/
structure State.RunningIn (p : Phase) (s : State) : Prop extends s.RunningOk where
  phase : s.phase = p

theorem State.TablesHidden.runningOk {s : State} (h : s.TablesHidden) (hq : s.pq = []) : s.RunningOk where
  toCommandOk := h.toCommandOk
  codesBuilt hc := by rw [h.noCodes] at hc; cases hc
  arena := arenaOk_of_invalid h.noTree
  codes := codesOk_of_invalid h.noCodes
  queue := hq

theorem State.CommandOk.quiet {s t : State} (h : s.CommandOk) (q : s.Quiet t) : t.CommandOk where
  cfgWf := q.cfg ▸ h.cfgWf
  busy := q.busy ▸ h.busy
  done := q.done ▸ h.done
  noError := q.errCode ▸ h.noError
  streams := q.streams h.streams

theorem State.TablesHidden.quiet {s t : State} (h : s.TablesHidden) (q : s.Quiet t) : t.TablesHidden where
  toCommandOk := h.toCommandOk.quiet q
  noTree := q.treeValid ▸ h.noTree
  noCodes := q.codesValid ▸ h.noCodes

theorem State.RunningOk.quiet {s t : State} (h : s.RunningOk) (q : s.Quiet t) : t.RunningOk where
  toCommandOk := h.toCommandOk.quiet q
  codesBuilt hc := by
    rw [q.treeValid, q.treeOrigin]
    exact h.codesBuilt (q.codesValid ▸ hc)
  arena := q.arenaOk.trans h.arena
  codes := q.codesOk.trans h.codes
  queue := q.pq ▸ h.queue

theorem State.RunningIn.quiet {p : Phase} {s t : State} (h : s.RunningIn p) (q : s.Quiet t) : t.RunningIn p where
  toRunningOk := h.toRunningOk.quiet q
  phase := q.phase ▸ h.phase

/-- An update of the counters, the streams, the cursor and the working registers is a quiet one. -/
theorem quiet_update (s : State) (freq : Vector Count 256) (cursor : Idx) (work : Work) (src : Source) (snk : Sink)
    (trace : List Tx) (freeCount : Nat) (h : s.src.pos ≤ s.src.bits.length → src.pos ≤ src.bits.length) :
    s.Quiet { s with freq := freq, cursor := cursor, work := work, src := src, snk := snk, trace := trace,
                     freeCount := freeCount } where
  cfg := rfl
  treeValid := rfl
  treeOrigin := rfl
  node := rfl
  nodeCount := rfl
  root := rfl
  codesValid := rfl
  codeLen := rfl
  codeBits := rfl
  pq := rfl
  phase := rfl
  errCode := rfl
  busy := rfl
  done := rfl
  streams hm := wf_iff.2 (h (wf_iff.1 hm))

/-- The flags, the phase and the host port are no part of the tables. -/
theorem sameTables_update (s : State) (phase : Phase) (errCode : Option ErrKind) (busy done freqValid : Bool) (work : Work)
    (cursor : Idx) (src : Source) (snk : Sink) (sel : BitVec 10) (pending : List HostAction) (rdata : Reg) (freeCount : Nat) :
    s.SameTables { s with phase := phase, errCode := errCode, busy := busy, done := done, freqValid := freqValid,
                          work := work, cursor := cursor, src := src, snk := snk, sel := sel, pending := pending,
                          rdata := rdata, freeCount := freeCount } where
  cfg := rfl
  treeValid := rfl
  treeOrigin := rfl
  node := rfl
  nodeCount := rfl
  root := rfl
  codesValid := rfl
  codeLen := rfl
  codeBits := rfl
  pq := rfl

/-! ## From the run invariant to a command and back: acceptance, end, error, stall -/

/-- The agreement of the sequencer's registers (R11 to R13, R176), one clause a register. -/
theorem sequencerOk_iff {s : State} : s.sequencerOk = true ↔
    (s.busy = true ↔ s.phase ≠ .idle ∧ s.phase ≠ .error) ∧
    (s.errCode ≠ none ↔ s.phase = .error) ∧
    (s.codesValid = true → s.treeValid = true ∧ s.treeOrigin = .built) ∧
    (s.phase = .error → s.done = false ∧ s.freqValid = false ∧ s.treeValid = false ∧ s.codesValid = false) ∧
    (s.busy = true → s.done = false) ∧
    (s.phase = .rdhdr → s.treeValid = false ∧ s.codesValid = false) := by
  have heq (b : Bool) (p : Prop) [Decidable p] : b = decide p ↔ (b = true ↔ p) := by cases b <;> simp
  simp only [State.sequencerOk, State.err, Bool.and_eq_true, Bool.or_eq_true, decide_eq_true_eq, Bool.not_eq_true', heq,
    Option.isSome_iff_ne_none, and_assoc, imp_iff_not_or, Bool.not_eq_true, ne_eq]

/-- Only `IDLE` and `ERROR` are not busy. -/
theorem phase_of_not_busy {s : State} (h : s.runOk = true) (hb : s.busy = false) : s.phase = .idle ∨ s.phase = .error := by
  obtain ⟨-, hseq, -⟩ := runOk_iff.1 h
  obtain ⟨hbusy, -⟩ := sequencerOk_iff.1 hseq
  rw [hb] at hbusy
  tauto

/-- An accepted command starts inside the invariant. -/
theorem runningOk_start {s : State} (h : s.runOk = true) (hi : s.phase = .idle) (m : BitVec 2) : (s.start m).RunningOk := by
  obtain ⟨hcfg, hseq, -, harena, hcodes, hmem, hpq⟩ := runOk_iff.1 h
  obtain ⟨-, herr, hbuilt, -⟩ := sequencerOk_iff.1 hseq
  have hsame : s.SameTables (s.start m) := sameTables_update s _ _ _ _ _ _ _ _ _ _ _ _ _
  exact
    { cfgWf := hcfg
      busy := rfl
      done := rfl
      noError := by simpa [hi] using herr
      streams := hmem
      codesBuilt := hbuilt
      arena := hsame.arenaOk.trans harena
      codes := hsame.codesOk.trans hcodes
      queue := hpq }

/-- A command that goes on to its end leaves the invariant of a run. -/
theorem State.RunningOk.complete {s : State} (h : s.RunningOk) : s.complete.runOk = true := by
  have hsame : s.SameTables s.complete := sameTables_update s _ _ _ _ _ _ _ _ _ _ _ _ _
  refine runOk_iff.2 ⟨h.cfgWf, sequencerOk_iff.2 ?_, rfl, hsame.arenaOk.trans h.arena, hsame.codesOk.trans h.codes,
    h.streams, h.queue⟩
  simpa [h.noError] using h.codesBuilt

/-- Error entry (R176) hides every table, so it needs only an empty queue. -/
theorem runOk_raiseErr {s : State} (hcfg : s.cfg.wf = true) (hmem : Memory.wf s = true) (hq : s.pq = []) (k : ErrKind) :
    (raiseErr k s).runOk = true :=
  runOk_iff.2 ⟨hcfg, sequencerOk_iff.2 (by simp), rfl, arenaOk_of_invalid rfl, codesOk_of_invalid rfl, hmem, hq⟩

theorem State.CommandOk.raise {s : State} (h : s.CommandOk) (hq : s.pq = []) (k : ErrKind) : (raiseErr k s).runOk = true :=
  runOk_raiseErr h.cfgWf h.streams hq k

/-- A command that stands where a collaborator of its phase stalls (R201); while a header is read nothing is valid. -/
theorem State.RunningOk.stalled {s : State} (h : s.RunningOk) (ha : s.atomicOk = true)
    (hr : s.phase = .rdhdr → s.treeValid = false ∧ s.codesValid = false) : s.runOk = true := by
  have hrunning : s.phase ≠ .idle ∧ s.phase ≠ .error :=
    ⟨fun hp => by simp [State.atomicOk, hp, h.busy] at ha, fun hp => by simp [State.atomicOk, hp, h.busy] at ha⟩
  refine runOk_iff.2 ⟨h.cfgWf, sequencerOk_iff.2 ?_, ha, h.arena, h.codes, h.streams, h.queue⟩
  simpa [h.busy, h.done, h.noError, hrunning] using ⟨h.codesBuilt, hr⟩

/-! ## Parts of a command that keep the invariant -/

/-- Where a part goes on `Q` holds; where it stalls or raises an error, the machine's next state keeps the invariant of a run.
A fault or a refusal has no next state. -/
def Res.Safe {α : Type} (Q : α → State → Prop) (r : Res α) : Prop :=
  match r with
  | .ok a s => Q a s
  | .stop .stall s => s.runOk = true
  | .stop (.raise k) s => (raiseErr k s).runOk = true
  | .stop (.fault _) _ => True
  | .stop (.refuse _) _ => True

@[simp] theorem Res.safe_ok {α : Type} (Q : α → State → Prop) (a : α) (s : State) : (Res.ok a s).Safe Q ↔ Q a s := Iff.rfl

theorem Res.Safe.bind {α β : Type} {P : α → State → Prop} {Q : β → State → Prop} {r : Res α}
    {f : α → State → Res β} (h : r.Safe P) (hf : ∀ a s, P a s → (f a s).Safe Q) : (r.bind f).Safe Q := by
  match r, h with
  | .ok a s, h => exact hf a s h
  | .stop .stall _, h => exact h
  | .stop (.raise _) _, h => exact h
  | .stop (.fault _) _, _ => trivial
  | .stop (.refuse _) _, _ => trivial

theorem Res.Safe.seq {P Q : State → Prop} {r : Res Unit} {f : State → Res Unit} (h : r.Safe fun _ => P)
    (hf : ∀ s, P s → (f s).Safe fun _ => Q) : (r.seq f).Safe fun _ => Q := Res.Safe.bind h fun _ s hs => hf s hs

theorem Res.Safe.mono {α : Type} {P Q : α → State → Prop} {r : Res α} (h : r.Safe P) (hpq : ∀ a s, P a s → Q a s) :
    r.Safe Q := by
  match r, h with
  | .ok a s, h => exact hpq a s h
  | .stop .stall _, h => exact h
  | .stop (.raise _) _, h => exact h
  | .stop (.fault _) _, _ => trivial
  | .stop (.refuse _) _, _ => trivial

/-- A part that can only stall, or be refused, is followed by anything. -/
theorem Res.Safe.bind_of_false {α β : Type} {Q : β → State → Prop} {r : Res α} {f : α → State → Res β}
    (h : r.Safe fun _ _ => False) : (r.bind f).Safe Q := h.bind fun _ _ hf => hf.elim

theorem Res.Safe.seq_of_false {Q : State → Prop} {r : Res Unit} {f : State → Res Unit}
    (h : r.Safe fun _ _ => False) : (r.seq f).Safe fun _ => Q := h.bind_of_false

theorem Res.Safe.settle {r : Res Unit} {t : State} (h : r.Safe fun _ s => s.runOk = true) (ht : Machine.settle r = .next t) :
    t.runOk = true := by
  obtain rfl | rfl | ⟨k, s, rfl, rfl⟩ := settle_eq_next ht
  · exact h
  · exact h
  · exact h

/-- A command keeps the invariant of a run if its body does from its start. -/
theorem accept_keeps_runOk {pre : State → Bool} {m : BitVec 2} {body : State → Res Unit} {s t : State} (h : s.runOk = true)
    (hbody : pre s = true → (s.start m).RunningOk → (body (s.start m)).Safe fun _ => State.RunningOk)
    (ht : accept pre m body s = .next t) : t.runOk = true := by
  obtain ⟨hcfg, -, -, -, -, hmem, hq⟩ := runOk_iff.1 h
  rcases accept_cases ht with ⟨-, rfl⟩ | ⟨-, -, -, rfl⟩ | ⟨hb, he, hp, hend⟩
  · exact h
  · exact runOk_raiseErr hcfg hmem hq _
  · have hi : s.phase = .idle := (phase_of_not_busy h hb).resolve_right he
    have hsafe := hbody hp (runningOk_start h hi m)
    rcases hend with ⟨u, hu, rfl⟩ | hu | ⟨k, u, hu, rfl⟩
    · rw [hu] at hsafe
      exact State.RunningOk.complete hsafe
    · rw [hu] at hsafe
      exact hsafe
    · rw [hu] at hsafe
      exact hsafe

/-! ## The stream primitives inside a command -/

/-- The phases that read whole words: the source may stall in them (R201). -/
def Phase.readsWords (p : Phase) : Bool :=
  match p with
  | .analyze | .rdmagic | .encbody | .decbody => true
  | .idle | .build | .gencodes | .wrmagic | .wrhdr | .close | .rdhdr | .error => false

/-- The phases that write: the sink may stall in them (R201). -/
def Phase.writes (p : Phase) : Bool :=
  match p with
  | .wrmagic | .wrhdr | .encbody | .close | .decbody => true
  | .idle | .analyze | .build | .gencodes | .rdmagic | .rdhdr | .error => false

theorem State.RunningIn.stalled_source {p : Phase} {s : State} (h : s.RunningIn p) (hp : p.readsWords = true)
    (ha : s.src.answers = some 0) : s.runOk = true := by
  apply h.stalled
  · rw [State.atomicOk, h.phase]
    cases p <;> simp_all [Phase.readsWords]
  · rw [h.phase]
    rintro rfl
    cases hp

theorem State.RunningIn.stalled_sink {p : Phase} {s : State} (h : s.RunningIn p) (hp : p.writes = true)
    (ha : s.snk.answers = some 0) : s.runOk = true := by
  apply h.stalled
  · rw [State.atomicOk, h.phase]
    cases p <;> simp_all [Phase.writes]
  · rw [h.phase]
    rintro rfl
    cases hp

/-- A read is a quiet change that leaves the stack. -/
theorem srcRead_safe {P : State → Prop} (n : Nat) {s : State} (hstall : s.src.answers = some 0 → s.runOk = true)
    (hP : ∀ t, s.Quiet t → t.work.stk = s.work.stk → P t) : (srcRead n s).Safe fun _ => P := by
  rcases srcRead_cases n s with ⟨ha, e⟩ | ⟨v, -, hp, e⟩ | ⟨-, -, e⟩ <;> rw [e]
  · exact hstall ha
  · exact hP _ (quiet_update s _ _ _ _ _ _ _ fun _ => (peek_eq_some.1 hp).1) rfl
  · exact hP _ (quiet_update s _ _ _ _ _ _ _ fun _ => Nat.le_refl _) rfl

theorem srcRead_running {p : Phase} (hp : p.readsWords = true) (n : Nat) {s : State} (h : s.RunningIn p) :
    (srcRead n s).Safe fun _ => State.RunningIn p :=
  srcRead_safe n (h.stalled_source hp) fun _ q _ => h.quiet q

theorem srcReset_running {p : Phase} (hp : p.readsWords = true) {s : State} (h : s.RunningIn p) :
    (srcReset s).Safe fun _ => State.RunningIn p := by
  rcases srcReset_cases s with ⟨ha, e⟩ | ⟨-, e⟩ <;> rw [e]
  · exact h.stalled_source hp ha
  · exact h.quiet (quiet_update s _ _ _ _ _ _ _ fun _ => Nat.zero_le _)

theorem sinkWrite_running {p : Phase} (hp : p.writes = true) (n : Nat) (v : BitVec 32) {s : State} (h : s.RunningIn p) :
    (sinkWrite n v s).Safe fun _ => State.RunningIn p := by
  rcases sinkWrite_cases n v s with ⟨-, e⟩ | ⟨-, ha, e⟩ | ⟨-, -, e⟩ <;> rw [e]
  · trivial
  · exact h.stalled_sink hp ha
  · exact h.quiet (quiet_update s _ _ _ _ _ _ _ id)

theorem sinkClose_running {p : Phase} (hp : p.writes = true) {s : State} (h : s.RunningIn p) :
    (sinkClose s).Safe fun _ => State.RunningIn p := by
  rcases sinkClose_cases s with ⟨-, e⟩ | ⟨-, ha, e⟩ | ⟨-, -, e⟩ <;> rw [e]
  · trivial
  · exact h.stalled_sink hp ha
  · exact h.quiet (quiet_update s _ _ _ _ _ _ _ id)

/-! ## The bodies that leave the arena as it is -/

/-- A command enters its phase. -/
theorem State.RunningOk.enter {s : State} (h : s.RunningOk) (p : Phase) : State.RunningIn p { s with phase := p } :=
  have hsame : s.SameTables { s with phase := p } := sameTables_update s _ _ _ _ _ _ _ _ _ _ _ _ _
  { h with
    arena := hsame.arenaOk.trans h.arena
    codes := hsame.codesOk.trans h.codes
    phase := rfl }

/-- A command discards the tree and the codes. -/
theorem State.RunningOk.discard {s : State} (h : s.RunningOk) :
    State.RunningOk { s with codesValid := false, treeValid := false } :=
  State.TablesHidden.runningOk { h with noTree := rfl, noCodes := rfl } h.queue

theorem countWord_running (x : BitVec 8) {s : State} (h : s.RunningIn .analyze) :
    (countWord x s).Safe fun _ => State.RunningIn .analyze := by
  unfold countWord
  split
  · exact h.raise h.queue _
  · exact h.quiet (quiet_update s _ _ _ _ _ _ _ id)

theorem analyzeLoop_running (bound : Nat) {s : State} (h : s.RunningIn .analyze) :
    (analyzeLoop bound s).Safe fun _ => State.RunningIn .analyze := by
  induction bound generalizing s with
  | zero => trivial
  | succ bound ih =>
    refine (srcRead_running rfl 8 h).bind fun v t ht => ?_
    cases v with
    | none => exact ht
    | some w => exact (countWord_running _ ht).seq fun u hu => ih hu

theorem analyzeBody_running {s : State} (h : s.RunningOk) : (analyzeBody s).Safe fun _ => State.RunningOk := by
  have hstart : (analyzeStart s).RunningIn .analyze :=
    { State.TablesHidden.runningOk (s := analyzeStart s) { h with noTree := rfl, noCodes := rfl } h.queue with phase := rfl }
  refine ((analyzeLoop_running _ hstart).seq fun t ht => srcReset_running rfl ht).seq fun t ht => ?_
  have hsame : t.SameTables { t with freqValid := true } := sameTables_update t _ _ _ _ _ _ _ _ _ _ _ _ _
  exact { ht with arena := hsame.arenaOk.trans ht.arena, codes := hsame.codesOk.trans ht.codes }

theorem wrmagicBody_running {s : State} (h : s.RunningOk) : (wrmagicBody s).Safe fun _ => State.RunningOk :=
  (sinkWrite_running rfl 32 _ (h.enter .wrmagic)).mono fun _ _ ht => ht.toRunningOk

theorem closeBody_running {s : State} (h : s.RunningOk) : (closeBody s).Safe fun _ => State.RunningOk :=
  (sinkClose_running rfl (h.enter .close)).mono fun _ _ ht => ht.toRunningOk

theorem rdmagicBody_running {s : State} (h : s.RunningOk) : (rdmagicBody s).Safe fun _ => State.RunningOk := by
  refine (srcRead_running rfl 32 (h.enter .rdmagic)).bind fun v t ht => ?_
  cases v with
  | none => exact ht.raise ht.queue _
  | some w =>
    dsimp only
    split
    · exact ht.toRunningOk
    · exact ht.raise ht.queue _

theorem setStk_running {s : State} (h : s.RunningIn .wrhdr) (stk : List StkEntry) : (s.setStk stk).RunningIn .wrhdr :=
  h.quiet (quiet_update s _ _ _ _ _ _ _ id)

theorem writeToken_running (n : Node) {s : State} (h : s.RunningIn .wrhdr) :
    (writeToken n s).Safe fun _ => State.RunningIn .wrhdr := by
  unfold writeToken writeLeafToken writeNodeToken
  cases s.work.stk with
  | nil => split <;> trivial
  | cons e rest =>
    split
    · exact (sinkWrite_running rfl 1 _ h).seq fun t ht =>
        (sinkWrite_running rfl 9 _ ht).seq fun u hu => setStk_running hu _
    · exact (sinkWrite_running rfl 1 _ h).seq fun t ht => setStk_running ht _

theorem writeTokens_running (bound : Nat) {s : State} (h : s.RunningIn .wrhdr) :
    (writeTokens bound s).Safe fun _ => State.RunningIn .wrhdr := by
  induction bound generalizing s with
  | zero => trivial
  | succ bound ih =>
    unfold writeTokens
    cases s.work.stk with
    | nil => exact h
    | cons e rest => exact (writeToken_running _ h).seq fun t ht => ih ht

theorem wrhdrBody_running {s : State} (h : s.RunningOk) : (wrhdrBody s).Safe fun _ => State.RunningOk :=
  (writeTokens_running _ (setStk_running (h.enter .wrhdr) _)).mono fun _ _ ht => ht.toRunningOk

theorem emitBits_running (bits : List Bool) {s : State} (h : s.RunningIn .encbody) :
    (emitBits bits s).Safe fun _ => State.RunningIn .encbody := by
  induction bits generalizing s with
  | nil => exact h
  | cons b bs ih => exact (sinkWrite_running rfl 1 _ h).seq fun t ht => ih ht

theorem encodeWord_running (x : BitVec 8) {s : State} (h : s.RunningIn .encbody) :
    (encodeWord x s).Safe fun _ => State.RunningIn .encbody := by
  unfold encodeWord
  split
  · exact h.raise h.queue _
  · exact emitBits_running _ h

theorem encodeLoop_running (bound : Nat) {s : State} (h : s.RunningIn .encbody) :
    (encodeLoop bound s).Safe fun _ => State.RunningIn .encbody := by
  induction bound generalizing s with
  | zero => trivial
  | succ bound ih =>
    refine (srcRead_running rfl 8 h).bind fun v t ht => ?_
    cases v with
    | none => exact ht
    | some w => exact (encodeWord_running _ ht).seq fun u hu => ih hu

theorem encbodyBody_running {s : State} (h : s.RunningOk) : (encbodyBody s).Safe fun _ => State.RunningOk :=
  ((encodeLoop_running _ (h.enter .encbody)).seq fun _ ht => emitBits_running _ ht).seq fun _ hu => hu.discard

theorem moveCursor_running (b : Bool) {s : State} (h : s.RunningIn .decbody) : (moveCursor b s).RunningIn .decbody :=
  h.quiet (quiet_update s _ _ _ _ _ _ _ id)

theorem writeDecoded_running {s : State} (h : s.RunningIn .decbody) :
    (writeDecoded s).Safe fun _ => State.RunningIn .decbody :=
  (sinkWrite_running rfl 8 _ h).seq fun t ht => ht.quiet (quiet_update t _ _ _ _ _ _ _ id)

theorem decodeLoop_running (bound : Nat) {s : State} (h : s.RunningIn .decbody) :
    (decodeLoop bound s).Safe fun _ => State.RunningIn .decbody := by
  induction bound generalizing s with
  | zero => trivial
  | succ bound ih =>
    refine (srcRead_running rfl 1 h).bind fun v t ht => ?_
    cases v with
    | none => exact ht.raise ht.queue _
    | some b =>
      have hmove := moveCursor_running (b.getLsbD 0) ht
      dsimp only
      split
      · split
        · exact hmove
        · exact (writeDecoded_running hmove).seq fun u hu => ih hu
      · exact ih hmove

theorem decbodyBody_running {s : State} (h : s.RunningOk) : (decbodyBody s).Safe fun _ => State.RunningOk := by
  have hstart : State.RunningIn .decbody { s with phase := .decbody, cursor := s.root } :=
    (h.enter .decbody).quiet (quiet_update { s with phase := .decbody } _ _ _ _ _ _ _ id)
  exact (decodeLoop_running _ hstart).seq fun _ ht => ht.discard

/-! ## Trees in the arena -/

/-- `s.Subtree i t is`: the arena holds the tree `t` with its top at entry `i`, in the entries `is` in pre-order (R17). -/
inductive State.Subtree (s : State) : Idx → Tree → List Idx → Prop where
  | leaf {i : Idx} {sym : Sym} : (s.nodeAt i).leaf = true → (s.nodeAt i).sym = sym → Subtree s i (.leaf sym) [i]
  | internal {i : Idx} {l r : Tree} {ls rs : List Idx} : (s.nodeAt i).leaf = false →
      Subtree s (s.nodeAt i).left l ls → Subtree s (s.nodeAt i).right r rs →
      Subtree s i (.internal l r) (i :: (ls ++ rs))

/-- A subtree does not depend on the other entries. -/
theorem State.Subtree.frame {s u : State} {i : Idx} {t : Tree} {is : List Idx} (h : s.Subtree i t is)
    (hu : ∀ j ∈ is, u.nodeAt j = s.nodeAt j) : u.Subtree i t is := by
  induction h with
  | leaf hl hs =>
    have hi := hu _ (List.mem_singleton_self _)
    exact .leaf (hi ▸ hl) (hi ▸ hs)
  | internal hl _ _ ihl ihr =>
    have hi := hu _ List.mem_cons_self
    refine .internal (hi ▸ hl) (hi ▸ ihl fun j hj => ?_) (hi ▸ ihr fun j hj => ?_)
    · exact hu j (by simp [hj])
    · exact hu j (by simp [hj])

theorem State.Subtree.length {s : State} {i : Idx} {t : Tree} {is : List Idx} (h : s.Subtree i t is) :
    is.length = t.size := by
  induction h with
  | leaf => rfl
  | internal _ _ _ ihl ihr => simp [Tree.size, ihl, ihr]; omega

theorem Tree.leaves_length_pos (t : Tree) : 0 < t.leaves.length := by
  induction t with
  | leaf => simp [Tree.leaves]
  | internal l r ihl _ => simp [Tree.leaves]; omega

/-- A tree with more than one leaf has an internal top. -/
theorem Tree.isInternal_of_leaves {t : Tree} (h : 1 < t.leaves.length) : t.isInternal = true := by
  cases t with
  | leaf s => simp [Tree.leaves] at h
  | internal l r => rfl

/-- The views of R17 follow a subtree to its leaves: no path is longer than the tree is large. -/
theorem State.Subtree.views {s : State} {i : Idx} {t : Tree} {is : List Idx} (h : s.Subtree i t is) {bound : Nat}
    (hb : t.size ≤ bound) : treeAt bound s i = some t ∧ indicesAt bound s i = is := by
  induction h generalizing bound with
  | leaf hl hs =>
    cases bound with
    | zero => simp [Tree.size] at hb
    | succ b => simp [treeAt, indicesAt, hl, hs]
  | @internal i l r ls rs hl _ _ ihl ihr =>
    cases bound with
    | zero => simp [Tree.size] at hb
    | succ b =>
      simp only [Tree.size] at hb
      obtain ⟨hlt, hli⟩ := ihl (bound := b) (by omega)
      obtain ⟨hrt, hri⟩ := ihr (bound := b) (by omega)
      simp [treeAt, indicesAt, hl, hlt, hli, hrt, hri]

theorem treeAt_succ {s : State} {b : Nat} {i : Idx} {t : Tree} (h : treeAt (b + 1) s i = some t) :
    ((s.nodeAt i).leaf = true ∧ t = .leaf (s.nodeAt i).sym) ∨
    ((s.nodeAt i).leaf = false ∧ ∃ l r, treeAt b s (s.nodeAt i).left = some l ∧ treeAt b s (s.nodeAt i).right = some r ∧
      t = .internal l r) := by
  unfold treeAt at h
  split at h
  · simp_all
  · split at h <;> simp_all

/-- What the view of R17 finds is a subtree. -/
theorem subtree_of_treeAt {s : State} {b : Nat} {i : Idx} {t : Tree} (h : treeAt b s i = some t) :
    ∃ is, s.Subtree i t is := by
  induction b generalizing i t with
  | zero => cases h
  | succ b ih =>
    rcases treeAt_succ h with ⟨hl, rfl⟩ | ⟨hl, l, r, hlt, hrt, rfl⟩
    · exact ⟨_, .leaf hl rfl⟩
    · obtain ⟨ls, hls⟩ := ih hlt
      obtain ⟨rs, hrs⟩ := ih hrt
      exact ⟨_, .internal hl hls hrs⟩

/-! ## The allocated entries -/

/-- The first `n` entries of the arena. -/
def firstEntries (n : Nat) : List Idx := (List.range n).map (BitVec.ofNat 10)

@[simp] theorem firstEntries_length (n : Nat) : (firstEntries n).length = n := by simp [firstEntries]

theorem firstEntries_succ (n : Nat) : firstEntries (n + 1) = firstEntries n ++ [BitVec.ofNat 10 n] := by
  simp [firstEntries, List.range_succ]

theorem toNat_lt_of_mem_firstEntries {n : Nat} {i : Idx} (h : i ∈ firstEntries n) : i.toNat < n := by
  obtain ⟨k, hk, rfl⟩ := List.mem_map.1 h
  exact Nat.lt_of_le_of_lt (Nat.mod_le _ _) (List.mem_range.1 hk)

theorem firstEntries_nodup {n : Nat} (hn : n ≤ 1024) : (firstEntries n).Nodup := by
  refine List.Nodup.map_on (fun x hx y hy hxy => ?_) List.nodup_range
  have hx' := List.mem_range.1 hx
  have hy' := List.mem_range.1 hy
  have h := congrArg BitVec.toNat hxy
  simp only [BitVec.toNat_ofNat] at h
  omega

/-- The entries `is` are exactly the allocated ones, each once (R16). -/
def State.Allocated (s : State) (is : List Idx) : Prop := is.Perm (firstEntries s.nodeCount.toNat)

theorem State.Allocated.congr {s t : State} {is : List Idx} (h : s.Allocated is) (hc : t.nodeCount = s.nodeCount) :
    t.Allocated is := by rw [State.Allocated, hc]; exact h

theorem State.Allocated.nodup {s : State} {is : List Idx} (h : s.Allocated is) : is.Nodup :=
  (List.Perm.nodup_iff h).2 (firstEntries_nodup (Nat.le_of_lt s.nodeCount.isLt))

theorem State.Allocated.lt {s : State} {is : List Idx} (h : s.Allocated is) {i : Idx} (hi : i ∈ is) :
    i.toNat < s.nodeCount.toNat := toNat_lt_of_mem_firstEntries ((List.Perm.mem_iff h).1 hi)

theorem State.Allocated.length {s : State} {is : List Idx} (h : s.Allocated is) : is.length = s.nodeCount.toNat := by
  rw [List.Perm.length_eq h, firstEntries_length]

/-- The next entry to be allocated is free. -/
theorem State.Allocated.fresh {s : State} {is : List Idx} (h : s.Allocated is) : s.nodeCount ∉ is :=
  fun hi => Nat.lt_irrefl _ (h.lt hi)

/-- The state after `Alloc` of the node `n` (R16). -/
def State.grow (s : State) (n : Node) : State := { s.setNode s.nodeCount n with nodeCount := s.nodeCount + 1#10 }

theorem State.grow_nodeAt_new (s : State) (n : Node) : (s.grow n).nodeAt s.nodeCount = n := nodeAt_setNode_self s _ n

theorem State.grow_nodeAt_old (s : State) (n : Node) {i : Idx} (h : i ≠ s.nodeCount) :
    (s.grow n).nodeAt i = s.nodeAt i := nodeAt_setNode_of_ne s n (Ne.symm h)

/-- The bounds that `Config.wf` gives the capacity and the placeholder (R5). -/
theorem Config.wf_bounds {c : Config} (h : c.wf = true) :
    513 ≤ c.nodeCap ∧ c.nodeCap < 1024 ∧ c.placeholderSym.toNat < 256 := by
  simp only [Config.wf, Bool.and_eq_true, decide_eq_true_eq] at h
  omega

theorem grow_count {s : State} (hcfg : s.cfg.wf = true) (hn : s.nodeCount.toNat < s.cfg.nodeCap) (n : Node) :
    (s.grow n).nodeCount.toNat = s.nodeCount.toNat + 1 := nodeCount_succ (Config.wf_bounds hcfg).2.1 hn

theorem State.Allocated.grow {s : State} {is : List Idx} (h : s.Allocated is) (hcfg : s.cfg.wf = true)
    (hn : s.nodeCount.toNat < s.cfg.nodeCap) (n : Node) : (s.grow n).Allocated (s.nodeCount :: is) := by
  rw [State.Allocated, grow_count hcfg hn, firstEntries_succ, BitVec.ofNat_toNat, BitVec.setWidth_eq]
  exact (List.Perm.cons _ h).trans (List.perm_append_singleton _ _).symm

/-- `Alloc` gives the next entry of the grown arena; where it raises `TreeOverflow` the queue must be empty for the invariant. -/
theorem alloc_safe {s : State} (h : s.CommandOk) (n : Node) (hfull : s.nodeCount.toNat = s.cfg.nodeCap → s.pq = []) :
    (alloc n s).Safe fun i t => s.nodeCount.toNat ≠ s.cfg.nodeCap ∧ i = s.nodeCount ∧ t = s.grow n := by
  rcases alloc_cases n s with ⟨hn, e⟩ | ⟨hn, e⟩ <;> rw [e]
  · exact h.raise (hfull hn) _
  · exact ⟨hn, rfl, rfl⟩

/-! ## A valid arena -/

/-- The arena holds the tree `t` at its root, in exactly the allocated entries, and its top is internal (R17). -/
structure State.HoldsTree (s : State) (t : Tree) : Prop where
  inEntries : ∃ is, s.Subtree s.root t is ∧ s.Allocated is
  isInternal : t.isInternal = true
  inCap : s.nodeCount.toNat ≤ s.cfg.nodeCap

/-- The leaves that a built tree may have (R17): symbols of the alphabet, unique, the end-of-stream symbol among them. -/
structure BuiltLeaves (ls : List Sym) : Prop where
  nodup : ls.Nodup
  le_eos : ∀ x ∈ ls, x.toNat ≤ 256
  eos : eosSym ∈ ls

theorem BuiltLeaves.perm {ls ls' : List Sym} (h : BuiltLeaves ls) (hp : ls'.Perm ls) : BuiltLeaves ls' where
  nodup := hp.nodup_iff.2 h.nodup
  le_eos x hx := h.le_eos x (hp.mem_iff.1 hx)
  eos := hp.mem_iff.2 h.eos

/-- The views of a held tree find it: it is no larger than the arena. -/
theorem State.HoldsTree.views {s : State} {t : Tree} (h : s.HoldsTree t) :
    s.tree = some t ∧ s.Allocated (indicesAt arenaSize s s.root) ∧ t.size = s.nodeCount.toNat := by
  obtain ⟨is, hs, ha⟩ := h.inEntries
  have hsize : t.size = s.nodeCount.toNat := hs.length ▸ ha.length
  obtain ⟨ht, hi⟩ := hs.views (bound := arenaSize) (hsize ▸ Nat.le_of_lt s.nodeCount.isLt)
  exact ⟨ht, hi ▸ ha, hsize⟩

theorem State.HoldsTree.arenaOk {s : State} {t : Tree} (h : s.HoldsTree t)
    (ho : s.treeOrigin = .parsed ∨ BuiltLeaves t.leaves) : s.arenaOk = true := by
  obtain ⟨ht, ha, hsize⟩ := h.views
  have hlt : ∀ i ∈ indicesAt arenaSize s s.root, i.toNat < s.nodeCount.toNat := fun i => ha.lt
  have hleaves : s.treeOrigin = .parsed ∨
      (t.leaves.Nodup ∧ ∀ x ∈ t.leaves, x.toNat ≤ 256) ∧ eosSym ∈ t.leaves :=
    ho.imp_right fun hb => ⟨⟨hb.nodup, hb.le_eos⟩, hb.eos⟩
  simpa [State.arenaOk, ht, h.isInternal, hsize, h.inCap, ha.nodup, hleaves] using .inr hlt

/-- A valid built arena holds a tree with the leaves of R17. -/
theorem builtTree_of_arenaOk {s : State} (h : s.arenaOk = true) (hv : s.treeValid = true) (ho : s.treeOrigin = .built) :
    ∃ t is, s.tree = some t ∧ s.Subtree s.root t is ∧ BuiltLeaves t.leaves := by
  cases ht : s.tree with
  | none => simp [State.arenaOk, hv, ht] at h
  | some t =>
    obtain ⟨is, hs⟩ := subtree_of_treeAt ht
    obtain ⟨-, ⟨hnd, hle⟩, heos⟩ : _ ∧ (t.leaves.Nodup ∧ ∀ x ∈ t.leaves, x.toNat ≤ 256) ∧ eosSym ∈ t.leaves := by
      simpa [State.arenaOk, hv, ht, ho] using h
    exact ⟨t, is, rfl, hs, hnd, hle, heos⟩

/-! ## The forest of BUILD -/

/-- `s.Forest roots is ls`: separate subtrees with these tops, in the entries `is`, with the leaves `ls`. -/
inductive State.Forest (s : State) : List Idx → List Idx → List Sym → Prop where
  | nil : Forest s [] [] []
  | cons {i : Idx} {t : Tree} {roots is js : List Idx} {ls : List Sym} :
      s.Subtree i t is → Forest s roots js ls → Forest s (i :: roots) (is ++ js) (t.leaves ++ ls)

theorem State.Forest.frame {s u : State} {roots is : List Idx} {ls : List Sym} (h : s.Forest roots is ls)
    (hu : ∀ j ∈ is, u.nodeAt j = s.nodeAt j) : u.Forest roots is ls := by
  induction h with
  | nil => exact .nil
  | cons ht _ ih =>
    exact .cons (ht.frame fun j hj => hu j (List.mem_append_left _ hj)) (ih fun j hj => hu j (List.mem_append_right _ hj))

/-- The order of the subtrees does not matter. -/
theorem State.Forest.perm {s : State} {roots roots' : List Idx} (hp : roots.Perm roots') {is : List Idx} {ls : List Sym}
    (h : s.Forest roots is ls) : ∃ is' ls', s.Forest roots' is' ls' ∧ is'.Perm is ∧ ls'.Perm ls := by
  induction hp generalizing is ls with
  | nil => exact ⟨is, ls, h, .rfl, .rfl⟩
  | cons i _ ih =>
    cases h with
    | @cons _ t _ ii _ _ ht hf =>
      obtain ⟨is', ls', hf', his, hls⟩ := ih hf
      exact ⟨_, _, .cons ht hf', his.append_left ii, hls.append_left t.leaves⟩
  | swap i j roots =>
    cases h with
    | cons hj hf =>
      cases hf with
      | cons hi hf =>
        refine ⟨_, _, .cons hi (.cons hj hf), ?_, ?_⟩ <;>
        · rw [← List.append_assoc, ← List.append_assoc]
          exact List.perm_append_comm.append_right _
  | trans _ _ ih₁ ih₂ =>
    obtain ⟨is₁, ls₁, h₁, hi₁, hl₁⟩ := ih₁ h
    obtain ⟨is₂, ls₂, h₂, hi₂, hl₂⟩ := ih₂ h₁
    exact ⟨is₂, ls₂, h₂, hi₂.trans hi₁, hl₂.trans hl₁⟩

/-- BUILD between two operations: the allocated entries are a forest with the tops `roots` and, in some order, the leaves `ls`.
Each leaf is a top at first and each merge makes one top of two, so entries and tops together are twice the leaves
(R97, R100). -/
structure State.Grove (roots : List Idx) (ls : List Sym) (s : State) : Prop extends s.TablesHidden where
  forest : ∃ is ls', s.Forest roots is ls' ∧ s.Allocated is ∧ ls'.Perm ls
  count : s.nodeCount.toNat + roots.length = 2 * ls.length

theorem State.Grove.perm {roots roots' : List Idx} {ls : List Sym} {s : State} (h : s.Grove roots ls)
    (hp : roots.Perm roots') : s.Grove roots' ls := by
  obtain ⟨is, ls', hf, ha, hl⟩ := h.forest
  obtain ⟨is', ls'', hf', hi', hl'⟩ := hf.perm hp
  exact { h with forest := ⟨is', ls'', hf', hi'.trans ha, hl'.trans hl⟩, count := hp.length_eq ▸ h.count }

theorem State.Grove.permLeaves {roots : List Idx} {ls ls' : List Sym} {s : State} (h : s.Grove roots ls)
    (hp : ls.Perm ls') : s.Grove roots ls' := by
  obtain ⟨is, ls'', hf, ha, hl⟩ := h.forest
  exact { h with forest := ⟨is, ls'', hf, ha, hl.trans hp⟩, count := hp.length_eq ▸ h.count }

/-- The queue itself, the operation-local registers and the root are no part of the forest. -/
theorem State.Grove.update {roots : List Idx} {ls : List Sym} {s : State} (h : s.Grove roots ls) (pq : List QEntry)
    (work : Work) (root : Idx) : State.Grove roots ls { s with pq := pq, work := work, root := root } := by
  obtain ⟨is, ls', hf, ha, hl⟩ := h.forest
  exact { h with forest := ⟨is, ls', hf.frame fun _ _ => rfl, ha, hl⟩ }

theorem State.TablesHidden.grow {s : State} (h : s.TablesHidden) (n : Node) : (s.grow n).TablesHidden := { h with }

/-- A new leaf is a new top (R93). -/
theorem State.Grove.plant {roots : List Idx} {ls : List Sym} {s : State} (h : s.Grove roots ls)
    (hn : s.nodeCount.toNat < s.cfg.nodeCap) (x : Sym) (w : Weight) :
    (s.grow (leafNode x w)).Grove (s.nodeCount :: roots) (x :: ls) := by
  obtain ⟨is, ls', hf, ha, hl⟩ := h.forest
  have hnew := s.grow_nodeAt_new (leafNode x w)
  have hleaf : (s.grow (leafNode x w)).Subtree s.nodeCount (.leaf x) [s.nodeCount] :=
    .leaf (by rw [hnew]; rfl) (by rw [hnew]; rfl)
  have hrest : (s.grow (leafNode x w)).Forest roots is ls' := hf.frame fun j hj => s.grow_nodeAt_old _ fun e => ha.fresh (e ▸ hj)
  have hcount := h.count
  exact
    { h.toTablesHidden.grow _ with
      forest := ⟨_, _, .cons hleaf hrest, ha.grow h.cfgWf hn _, hl.cons x⟩
      count := by rw [grow_count h.cfgWf hn]; simp only [List.length_cons]; omega }

/-- A merge makes one top of two (R95, R96). -/
theorem State.Grove.join {i j : Idx} {roots : List Idx} {ls : List Sym} {s : State} (h : s.Grove (i :: j :: roots) ls)
    (hn : s.nodeCount.toNat < s.cfg.nodeCap) (w : Weight) :
    (s.grow (internalNode w i j)).Grove (s.nodeCount :: roots) ls := by
  obtain ⟨is, ls', hf, ha, hl⟩ := h.forest
  have hnew := s.grow_nodeAt_new (internalNode w i j)
  have hold : ∀ k ∈ is, (s.grow (internalNode w i j)).nodeAt k = s.nodeAt k :=
    fun k hk => s.grow_nodeAt_old _ fun e => ha.fresh (e ▸ hk)
  replace hf := hf.frame hold
  cases hf with
  | @cons _ ti _ is _ _ hti hf =>
    cases hf with
    | @cons _ tj _ js ks ms htj hf =>
      have htop : (s.grow (internalNode w i j)).Subtree s.nodeCount (.internal ti tj) (s.nodeCount :: (is ++ js)) :=
        .internal (by rw [hnew]; rfl) (by rw [hnew]; exact hti) (by rw [hnew]; exact htj)
      have hcount := h.count
      refine { h.toTablesHidden.grow _ with forest := ⟨_, _, .cons htop hf, ?_, ?_⟩, count := ?_ }
      · have := ha.grow h.cfgWf hn (internalNode w i j)
        simpa using this
      · simpa [Tree.leaves] using hl
      · rw [grow_count h.cfgWf hn]
        simp only [List.length_cons] at hcount ⊢
        omega

/-- When one top is left and names the root, the arena holds a tree with all the leaves. -/
theorem State.Grove.holdsTree {i : Idx} {ls : List Sym} {s : State} (h : s.Grove [i] ls) (hi : s.root = i)
    (hls : 1 < ls.length) (hcap : s.nodeCount.toNat ≤ s.cfg.nodeCap) : ∃ t, s.HoldsTree t ∧ t.leaves.Perm ls := by
  subst hi
  obtain ⟨is, ls', hf, ha, hl⟩ := h.forest
  cases hf with
  | @cons _ t _ is _ _ ht hf =>
    cases hf
    rw [List.append_nil] at ha hl
    exact ⟨t, ⟨⟨is, ht, ha⟩, Tree.isInternal_of_leaves (hl.length_eq ▸ hls), hcap⟩, hl⟩

/-- The tops of the subtrees that the queue holds. -/
def State.tops (s : State) : List Idx := s.pq.map QEntry.idx

@[simp] theorem State.tops_length (s : State) : s.tops.length = s.pq.length := by simp [State.tops]

/-- An insertion puts the entry somewhere into the queue. -/
theorem insertEntry_perm (e : QEntry) (q : List QEntry) : (insertEntry e q).Perm (e :: q) := by
  induction q with
  | nil => exact .rfl
  | cons x xs ih =>
    unfold insertEntry
    split
    · exact .rfl
    · exact (ih.cons x).trans (.swap e x xs)

/-! ## The leaf loader -/

/-- The symbols with a positive count, in ascending order (R93); the first count is that of `sym`. -/
def positiveFrom (sym : Nat) (counts : List Count) : List Sym :=
  match counts with
  | [] => []
  | c :: cs => if c = 0#32 then positiveFrom (sym + 1) cs else BitVec.ofNat 9 sym :: positiveFrom (sym + 1) cs

theorem positiveFrom_cons (sym : Nat) (c : Count) (cs : List Count) :
    positiveFrom sym (c :: cs) = positiveFrom sym [c] ++ positiveFrom (sym + 1) cs := by
  simp only [positiveFrom]
  split <;> simp

theorem positiveFrom_bounds {sym : Nat} {counts : List Count} {x : Sym} (h : x ∈ positiveFrom sym counts)
    (hn : sym + counts.length ≤ 257) : sym ≤ x.toNat ∧ x.toNat < sym + counts.length := by
  induction counts generalizing sym with
  | nil => cases h
  | cons c cs ih =>
    simp only [positiveFrom, List.length_cons] at h hn ⊢
    split at h
    · have := ih h (by omega)
      omega
    · rcases List.mem_cons.1 h with rfl | h
      · rw [BitVec.toNat_ofNat, Nat.mod_eq_of_lt (by omega)]
        omega
      · have := ih h (by omega)
        omega

theorem positiveFrom_nodup {sym : Nat} {counts : List Count} (hn : sym + counts.length ≤ 257) :
    (positiveFrom sym counts).Nodup := by
  induction counts generalizing sym with
  | nil => exact .nil
  | cons c cs ih =>
    simp only [positiveFrom, List.length_cons] at hn ⊢
    split
    · exact ih (by omega)
    · refine List.nodup_cons.2 ⟨fun hmem => ?_, ih (by omega)⟩
      have := (positiveFrom_bounds hmem (by omega)).1
      rw [BitVec.toNat_ofNat, Nat.mod_eq_of_lt (by omega)] at this
      omega

theorem positiveFrom_length_le (sym : Nat) (counts : List Count) : (positiveFrom sym counts).length ≤ counts.length := by
  induction counts generalizing sym with
  | nil => exact Nat.le_refl _
  | cons c cs ih =>
    have := ih (sym + 1)
    simp only [positiveFrom]
    split <;> simp only [List.length_cons] <;> omega

/-- A last count that is positive gives its symbol. -/
theorem mem_positiveFrom_append (sym : Nat) (counts : List Count) {c : Count} (hc : c ≠ 0#32) :
    BitVec.ofNat 9 (sym + counts.length) ∈ positiveFrom sym (counts ++ [c]) := by
  induction counts generalizing sym with
  | nil => simp [positiveFrom, hc]
  | cons d ds ih =>
    have := ih (sym + 1)
    simp only [List.cons_append, positiveFrom, List.length_cons]
    rw [show sym + (ds.length + 1) = sym + 1 + ds.length by omega]
    split
    · exact this
    · exact List.mem_cons_of_mem _ this

/-- An entry with the top `i` goes into the queue, wherever its key puts it. -/
theorem State.Grove.insert {ls : List Sym} {s : State} {e : QEntry} (h : s.Grove (e.idx :: s.tops) ls) (work : Work) :
    let t := { s with pq := insertEntry e s.pq, work := work }
    t.Grove t.tops ls :=
  (h.update (insertEntry e s.pq) work s.root).perm ((insertEntry_perm e s.pq).map QEntry.idx).symm

/-- The loader between two symbols: as many entries in the queue as leaves. -/
structure State.Loading (ls : List Sym) (s : State) : Prop extends s.Grove s.tops ls where
  queued : s.pq.length = ls.length

/-- While fewer than 257 leaves are there, the arena has room for another (R5, R100). -/
theorem loadLeaf_loading (sym : Nat) (c : Count) {ls : List Sym} {s : State} (h : s.Loading ls) (hn : ls.length < 257) :
    (loadLeaf sym c s).Safe fun _ => State.Loading (ls ++ positiveFrom sym [c]) := by
  obtain ⟨hcap, -, -⟩ := Config.wf_bounds h.cfgWf
  have hcount := h.count
  rw [State.tops_length, h.queued] at hcount
  unfold loadLeaf positiveFrom positiveFrom
  split
  · rw [List.append_nil]
    exact h
  · refine (alloc_safe h.toCommandOk _ (fun hfull => by omega)).bind ?_
    rintro _ _ ⟨-, rfl, rfl⟩
    have hplant := (h.toGrove.plant (by omega) (BitVec.ofNat 9 sym) (c.setWidth 40)).permLeaves
      (List.perm_append_singleton _ ls).symm
    have hqueued : s.pq.length + 1 = (ls ++ [BitVec.ofNat 9 sym]).length := by simp [h.queued]
    exact ⟨State.Grove.insert (e := ⟨_, _, s.nodeCount⟩) hplant _, (insertEntry_length _ _).trans hqueued⟩

theorem loadLeaves_loading (sym : Nat) (counts : List Count) {ls : List Sym} {s : State} (h : s.Loading ls)
    (hn : ls.length + counts.length ≤ 257) :
    (loadLeaves sym counts s).Safe fun _ => State.Loading (ls ++ positiveFrom sym counts) := by
  induction counts generalizing sym ls s with
  | nil => simpa [positiveFrom, loadLeaves] using h
  | cons c cs ih =>
    rw [List.length_cons] at hn
    refine (loadLeaf_loading sym c h (by omega)).seq fun t ht => ?_
    have hlen := positiveFrom_length_le sym [c]
    rw [List.length_singleton] at hlen
    rw [positiveFrom_cons, ← List.append_assoc]
    exact ih (sym + 1) ht (by rw [List.length_append]; omega)

/-! ## The merger -/

/-- `RemoveMin` gives the first top of the queue, beside the tops `taken` before; a queue without one has no next state (R18). -/
theorem removeMin_grove {taken : List Idx} {ls : List Sym} {s : State} (h : s.Grove (taken ++ s.tops) ls) :
    (removeMin s).Safe fun e t => t.Grove (taken ++ e.idx :: t.tops) ls ∧ t.pq.length + 1 = s.pq.length := by
  rcases removeMin_cases s with ⟨-, e⟩ | ⟨e, rest, hq, he⟩
  · rw [e]
    trivial
  · rw [he]
    have htops : s.tops = e.idx :: rest.map QEntry.idx := by rw [State.tops, hq]; rfl
    exact ⟨(htops ▸ h).update rest s.work s.root, by rw [hq]; rfl⟩

/-- With at most 257 leaves the arena has room for every merge (R100). -/
theorem mergeOnce_grove {ls : List Sym} {s : State} (h : s.Grove s.tops ls) (hn : ls.length ≤ 257) :
    (mergeOnce s).Safe fun _ t => t.Grove t.tops ls ∧ t.pq.length + 1 = s.pq.length := by
  refine (removeMin_grove (taken := []) h).bind fun a t ⟨ht, hqt⟩ => ?_
  refine (removeMin_grove (taken := [a.idx]) (s := { t with work := { t.work with a := a } })
    (ht.update _ _ _)).bind fun b u ⟨hu, hqu⟩ => ?_
  obtain ⟨hcap, -, -⟩ := Config.wf_bounds hu.cfgWf
  have hcount := hu.count
  simp only [List.length_cons, List.length_append, State.tops_length, List.length_nil] at hcount
  have hw := hu.update u.pq { u.work with b := b } u.root
  refine (alloc_safe (s := { u with work := { u.work with b := b } }) hw.toCommandOk _ (fun hfull => ?_)).bind ?_
  · have : u.nodeCount.toNat = u.cfg.nodeCap := hfull
    omega
  rintro _ _ ⟨-, rfl, rfl⟩
  have hroom : u.nodeCount.toNat < u.cfg.nodeCap := by omega
  have hjoin := hw.join hroom (a.weight + b.weight)
  refine ⟨State.Grove.insert (e := ⟨_, _, u.nodeCount⟩) hjoin _, ?_⟩
  have hlen := insertEntry_length ⟨a.weight + b.weight, 257#10 + u.work.m.setWidth 10, u.nodeCount⟩ u.pq
  have hq : u.pq.length + 1 + 1 = s.pq.length := by rw [hqu]; exact hqt
  exact (congrArg (· + 1) hlen).trans hq

/-- The merger ends with at most one entry in the queue (R97). -/
theorem mergeLoop_grove (bound : Nat) {ls : List Sym} {s : State} (h : s.Grove s.tops ls) (hn : ls.length ≤ 257)
    (hb : s.pq.length ≤ bound + 1) :
    (mergeLoop bound s).Safe fun _ t => t.Grove t.tops ls ∧ t.pq.length ≤ 1 := by
  induction bound generalizing s with
  | zero => exact ⟨h, hb⟩
  | succ bound ih =>
    unfold mergeLoop
    split
    · exact (mergeOnce_grove h hn).seq fun t ⟨ht, hq⟩ => ih ht (by omega)
    · exact ⟨h, by omega⟩

/-- What BUILD leaves before its last line: a tree with the leaves `ls`, hidden, and an empty queue. -/
structure State.TreeBuilt (ls : List Sym) (s : State) : Prop extends s.TablesHidden where
  tree : ∃ t, s.HoldsTree t ∧ t.leaves.Perm ls
  queue : s.pq = []

theorem mergeAll_built {ls : List Sym} {s : State} (h : s.Grove s.tops ls) (h1 : 1 < ls.length) (hn : ls.length ≤ 257) :
    (mergeAll s).Safe fun _ => State.TreeBuilt ls := by
  refine (mergeLoop_grove _ h hn (Nat.le_succ _)).seq fun t ⟨ht, hqt⟩ => ?_
  refine (removeMin_grove (taken := []) ht).bind fun a u ⟨hu, hqu⟩ => ?_
  have hempty : u.pq = [] := List.length_eq_zero_iff.1 (by omega)
  rw [State.tops, hempty] at hu
  obtain ⟨hcap, -, -⟩ := Config.wf_bounds hu.cfgWf
  have hcount : u.nodeCount.toNat + 1 = 2 * ls.length := hu.count
  have hcap' : u.nodeCount.toNat ≤ u.cfg.nodeCap := by omega
  have hroot := hu.update u.pq { u.work with a := a } a.idx
  exact { hroot.toTablesHidden with tree := hroot.holdsTree rfl h1 hcap', queue := hempty }

/-- A lone leaf gets the placeholder, a byte value, as its sibling (R98). -/
theorem degenerate_built {x : Sym} {s : State} (h : s.Grove s.tops [x]) (hq : s.pq.length = 1) :
    (degenerate s).Safe fun _ t => ∃ y : Sym, y.toNat < 256 ∧ t.TreeBuilt [y, x] := by
  refine (removeMin_grove (taken := []) h).bind fun a t ⟨ht, hqt⟩ => ?_
  have hempty : t.pq = [] := List.length_eq_zero_iff.1 (by omega)
  rw [State.tops, hempty] at ht
  obtain ⟨hcap, -, hplace⟩ := Config.wf_bounds ht.cfgWf
  have hcount : t.nodeCount.toNat + 1 = 2 * 1 := ht.count
  have hw := ht.update t.pq { t.work with a := a } t.root
  refine (alloc_safe (s := { t with work := { t.work with a := a } }) hw.toCommandOk _ fun _ => hempty).bind ?_
  rintro _ u ⟨-, rfl, hu⟩
  have hpair : u.Grove [a.idx, t.nodeCount] [t.cfg.placeholderSym, x] :=
    hu ▸ (hw.plant (show t.nodeCount.toNat < t.cfg.nodeCap by omega) _ _).perm (.swap ..)
  have hcount₂ : u.nodeCount.toNat + 2 = 2 * 2 := hpair.count
  have hcap₂ : 513 ≤ u.cfg.nodeCap := (Config.wf_bounds hpair.cfgWf).1
  have hempty₂ : u.pq = [] := hu ▸ hempty
  refine (alloc_safe hpair.toCommandOk _ fun _ => hempty₂).bind ?_
  rintro _ v ⟨-, rfl, hv⟩
  have htop : v.Grove [u.nodeCount] [t.cfg.placeholderSym, x] := hv ▸ hpair.join (by omega) a.weight
  have hcount₃ : v.nodeCount.toNat + 1 = 2 * 2 := htop.count
  have hcap₃ : 513 ≤ v.cfg.nodeCap := (Config.wf_bounds htop.cfgWf).1
  have hroot := htop.update v.pq v.work u.nodeCount
  exact ⟨_, hplace, { hroot.toTablesHidden with
    tree := hroot.holdsTree rfl (by simp) (show v.nodeCount.toNat ≤ v.cfg.nodeCap by omega)
    queue := by rw [hv]; exact hempty₂ }⟩

/-! ## BUILD -/

theorem buildStart_loading {s : State} (h : s.RunningOk) : (buildStart s).Loading [] :=
  { h.toCommandOk with
    noTree := rfl
    noCodes := rfl
    forest := ⟨[], [], .nil, .rfl, .rfl⟩
    count := rfl
    queued := rfl }

theorem counts_length (s : State) : s.counts.length = 257 := by simp [State.counts]

/-- The symbols with a positive count are leaves for a built tree: the hardwired count of the end-of-stream symbol is positive
(R14, R17). -/
theorem builtLeaves_positive (s : State) : BuiltLeaves (positiveFrom 0 s.counts) where
  nodup := positiveFrom_nodup (by rw [counts_length])
  le_eos x hx := by
    have hlt := (positiveFrom_bounds hx (by rw [counts_length])).2
    rw [counts_length] at hlt
    omega
  eos := by simpa [State.counts] using mem_positiveFrom_append 0 s.freq.toList (c := 1#32) (by decide)

/-- A lone leaf is the end-of-stream symbol's, so it and the placeholder are leaves for a built tree (R98). -/
theorem builtLeaves_placeholder {y : Sym} (hy : y.toNat < 256) : BuiltLeaves [y, eosSym] := by
  have hne : y ≠ eosSym := by
    rintro rfl
    exact absurd hy (by decide)
  exact ⟨by simp [hne], by simp [Nat.le_of_lt hy], by simp⟩

/-- BUILD's tree is over the positive symbols, or over the end-of-stream symbol and the placeholder (R92, R98). -/
theorem buildTree_built {ls : List Sym} {s : State} (h : s.Loading ls) (hls : BuiltLeaves ls) (hlen : ls.length ≤ 257) :
    (if s.pq.length = 1 then degenerate s else mergeAll s).Safe fun _ t => ∃ ls', t.TreeBuilt ls' ∧ BuiltLeaves ls' := by
  split
  · next h1 =>
    obtain ⟨x, rfl⟩ := List.length_eq_one_iff.1 (h.queued ▸ h1)
    obtain rfl := List.mem_singleton.1 hls.eos
    exact (degenerate_built h.toGrove h1).mono fun _ t ⟨y, hy, ht⟩ => ⟨_, ht, builtLeaves_placeholder hy⟩
  · next h1 =>
    have hpos := List.length_pos_of_mem hls.eos
    have hmany : 1 < ls.length := by
      rw [h.queued] at h1
      omega
    exact (mergeAll_built h.toGrove hmany hlen).mono fun _ t ht => ⟨ls, ht, hls⟩

/-- The end of BUILD makes the tree valid (R92). -/
theorem buildEnd_running {ls : List Sym} {s : State} (h : s.TreeBuilt ls) (hls : BuiltLeaves ls) :
    (buildEnd s).RunningOk := by
  obtain ⟨t, ⟨⟨is, hs, ha⟩, hint, hcap⟩, hp⟩ := h.tree
  have hholds : (buildEnd s).HoldsTree t := ⟨⟨is, hs.frame fun _ _ => rfl, ha⟩, hint, hcap⟩
  exact
    { h.toCommandOk with
      codesBuilt := fun _ => ⟨rfl, rfl⟩
      arena := hholds.arenaOk (.inr (hls.perm hp))
      codes := codesOk_of_invalid h.noCodes
      queue := h.queue }

theorem buildBody_running {s : State} (h : s.RunningOk) :
    (buildBody s).Safe fun _ t => t.RunningOk ∧ t.treeValid = true ∧ t.treeOrigin = .built := by
  have hlen : (positiveFrom 0 s.counts).length ≤ 257 := counts_length s ▸ positiveFrom_length_le 0 s.counts
  have hload := loadLeaves_loading 0 s.counts (buildStart_loading h) (by rw [counts_length]; rfl)
  refine (hload.seq fun t ht => buildTree_built ht (builtLeaves_positive s) hlen).seq ?_
  rintro t ⟨ls, ht, hls⟩
  exact ⟨buildEnd_running ht hls, rfl, rfl⟩

/-! ## The codes that GENCODES writes -/

/-- A shift to the left appends the bit 0 to a path that keeps within the 256 bits (R107). -/
theorem msbBits_shiftLeft {n : Nat} (b : CodeBits) (hn : n < 256) :
    msbBits (n + 1) (b <<< 1) = msbBits n b ++ [false] := by
  induction n with
  | zero => simp [msbBits_succ]
  | succ n ih =>
    rw [msbBits_succ, ih (by omega), msbBits_succ n b]
    simp [hn, BitVec.getLsbD_eq_getElem (show n < 256 by omega)]

/-- The bit 1 in the free last place appends a 1. -/
theorem msbBits_shiftLeft_or_one {n : Nat} (b : CodeBits) (hn : n < 256) :
    msbBits (n + 1) ((b <<< 1) ||| 1#256) = msbBits n b ++ [true] := by
  induction n with
  | zero => simp [msbBits_succ]
  | succ n ih =>
    rw [msbBits_succ, ih (by omega), msbBits_succ n b]
    simp [hn, BitVec.getLsbD_eq_getElem (show n < 256 by omega)]

/-- The codes of a tree are those of its leaves, from left to right. -/
theorem Tree.codes_map_fst (t : Tree) : t.codes.map Prod.fst = t.leaves := by
  induction t with
  | leaf s => rfl
  | internal l r ihl ihr => simp [Tree.codes, Tree.leaves, ← ihl, ← ihr, Function.comp_def]

/-- The code of a symbol is that of a leaf with the symbol, or empty where no leaf has it (R108). -/
theorem Tree.codeOf_cases (t : Tree) (x : Sym) : (x, t.codeOf x) ∈ t.codes ∨ (x ∉ t.leaves ∧ t.codeOf x = []) := by
  cases h : t.codes.lookup x with
  | none =>
    refine .inr ⟨fun hx => ?_, by simp [Tree.codeOf, h]⟩
    rw [← t.codes_map_fst] at hx
    obtain ⟨⟨y, c⟩, hc, rfl⟩ := List.mem_map.1 hx
    simpa using List.lookup_eq_none_iff.1 h _ hc
  | some c =>
    obtain ⟨before, after, hc, -⟩ := List.lookup_eq_some_iff.1 h
    have hmem : (x, c) ∈ t.codes := hc ▸ List.mem_append_right before List.mem_cons_self
    exact .inl (by simpa [Tree.codeOf, h] using hmem)

/-- GENCODES changes the code table and the working registers only. -/
def State.CodesWritten (s t : State) : Prop :=
  ∃ codeLen codeBits work, t = { s with codeLen := codeLen, codeBits := codeBits, work := work }

theorem State.CodesWritten.refl (s : State) : s.CodesWritten s := ⟨_, _, _, rfl⟩

theorem State.CodesWritten.trans {s t u : State} (h : s.CodesWritten t) (h' : t.CodesWritten u) : s.CodesWritten u := by
  obtain ⟨_, _, _, rfl⟩ := h
  obtain ⟨_, _, _, rfl⟩ := h'
  exact ⟨_, _, _, rfl⟩

theorem State.CodesWritten.nodeAt {s t : State} (h : s.CodesWritten t) (i : Idx) : t.nodeAt i = s.nodeAt i := by
  obtain ⟨_, _, _, rfl⟩ := h
  rfl

/-- After the walk of a subtree with the path `path` above it: each of its leaves has the path and its code, every other symbol
the code it had (R106, R107). -/
structure State.WalkedTo (s : State) (t : Tree) (path : List Bool) (u : State) : Prop where
  frame : s.CodesWritten u
  inside : ∀ x c, (x, c) ∈ t.codes → u.codeOf x.toNat = path ++ c
  outside : ∀ x : Sym, x ∉ t.leaves → u.codeOf x.toNat = s.codeOf x.toNat

theorem Tree.mem_leaves_of_mem_codes {t : Tree} {x : Sym} {c : List Bool} (h : (x, c) ∈ t.codes) : x ∈ t.leaves :=
  t.codes_map_fst ▸ List.mem_map_of_mem (f := Prod.fst) h

/-- The leaf's symbol takes the path as its code. -/
theorem walkedTo_leaf (s : State) {sym : Sym} (hle : sym.toNat ≤ 256) (len : Len) (bits : CodeBits) :
    s.WalkedTo (.leaf sym) (msbBits len.toNat bits) ((s.setPath len bits).setCode sym len bits) := by
  have hread := codeOf_setCode (s.setPath len bits) sym len bits
  refine ⟨⟨_, _, _, rfl⟩, fun x c hc => ?_, fun x hx => ?_⟩
  · obtain ⟨rfl, rfl⟩ := Prod.mk.inj (List.mem_singleton.1 hc)
    rw [hread _ (Nat.lt_succ_of_le hle), if_pos rfl, List.append_nil]
  · have hne : sym.toNat ≠ x.toNat := fun h => hx (List.mem_singleton.2 (BitVec.eq_of_toNat_eq h).symm)
    rw [hread _ (Nat.lt_succ_of_le hle), if_neg hne]
    rfl

/-- The right subtree keeps the codes that the left one wrote, because no leaf is in both (R17). -/
theorem walkedTo_internal {s t u : State} {l r : Tree} {path : List Bool} (hd : l.leaves.Disjoint r.leaves)
    (hl : s.WalkedTo l (path ++ [false]) t) (hr : t.WalkedTo r (path ++ [true]) u) : s.WalkedTo (.internal l r) path u where
  frame := hl.frame.trans hr.frame
  inside x c hc := by
    rcases List.mem_append.1 hc with h | h
    · obtain ⟨⟨y, d⟩, hd', e⟩ := List.mem_map.1 h
      obtain ⟨rfl, rfl⟩ := Prod.mk.inj e
      rw [hr.outside y fun hy => hd (Tree.mem_leaves_of_mem_codes hd') hy, hl.inside y d hd', List.append_assoc]
      rfl
    · obtain ⟨⟨y, d⟩, hd', e⟩ := List.mem_map.1 h
      obtain ⟨rfl, rfl⟩ := Prod.mk.inj e
      rw [hr.inside y d hd', List.append_assoc]
      rfl
  outside x hx := by
    have hx' : x ∉ l.leaves ∧ x ∉ r.leaves := by simpa [Tree.leaves] using hx
    rw [hr.outside x hx'.2, hl.outside x hx'.1]

/-- The path register is no part of the code table. -/
theorem State.WalkedTo.of_setPath {s u : State} {t : Tree} {path : List Bool} {len : Len} {bits : CodeBits}
    (h : (s.setPath len bits).WalkedTo t path u) : s.WalkedTo t path u where
  frame := .trans ⟨_, _, _, rfl⟩ h.frame
  inside := h.inside
  outside := h.outside

/-- `Walk` (R107) over a subtree whose leaves are symbols of the alphabet, each once: no path is longer than a code may be,
because a path has fewer nodes beside it than the alphabet has symbols. -/
theorem walk_safe {s₀ : State} {i : Idx} {t : Tree} {is : List Idx} (ht : s₀.Subtree i t is) (hnd : t.leaves.Nodup)
    (hle : ∀ x ∈ t.leaves, x.toNat ≤ 256) (bound : Nat) (len : Len) (bits : CodeBits)
    (hlen : len.toNat + t.leaves.length ≤ 257) {s : State} (hs : s₀.CodesWritten s) :
    (walk bound i len bits s).Safe fun _ => s.WalkedTo t (msbBits len.toNat bits) := by
  induction ht generalizing bound len bits s with
  | @leaf i sym hl hsym =>
    cases bound with
    | zero => trivial
    | succ bound =>
      have hnode : (s.setPath len bits).nodeAt i = s₀.nodeAt i := hs.nodeAt i
      simp only [walk, hnode, hl, hsym, if_true]
      exact walkedTo_leaf s (hle sym (List.mem_singleton_self _)) len bits
  | @internal i l r ls rs hl _ _ ihl ihr =>
    cases bound with
    | zero => trivial
    | succ bound =>
      have hnode : (s.setPath len bits).nodeAt i = s₀.nodeAt i := hs.nodeAt i
      simp only [walk, hnode, hl, Bool.false_eq_true, if_false]
      simp only [Tree.leaves, List.length_append] at hnd hle hlen
      obtain ⟨hndl, hndr, hdis⟩ := List.nodup_append'.1 hnd
      have hposl := l.leaves_length_pos
      have hposr := r.leaves_length_pos
      have hlen' : (len + 1#9).toNat = len.toNat + 1 := by
        rw [BitVec.toNat_add]
        exact Nat.mod_eq_of_lt (by simp; omega)
      have hpath : s₀.CodesWritten (s.setPath len bits) := hs.trans ⟨_, _, _, rfl⟩
      have hleft := ihl hndl (fun x hx => hle x (List.mem_append_left _ hx)) bound (len + 1#9) (bits <<< 1) (by omega) hpath
      rw [hlen', msbBits_shiftLeft bits (by omega)] at hleft
      refine hleft.seq fun t ht => ?_
      have hwritten : s₀.CodesWritten t := hpath.trans ht.frame
      have hright := ihr hndr (fun x hx => hle x (List.mem_append_right _ hx)) bound (len + 1#9) ((bits <<< 1) ||| 1#256)
        (by omega) hwritten
      rw [hlen', msbBits_shiftLeft_or_one bits (by omega)] at hright
      rw [hwritten.nodeAt i]
      exact hright.mono fun _ u hu => (walkedTo_internal hdis ht hu).of_setPath

/-- The codes of a tree, each symbol's, in the code table. -/
theorem codesOk_of_tree {s : State} {t : Tree} (ht : s.tree = some t)
    (hc : ∀ x : Sym, s.codeOf x.toNat = t.codeOf x) : s.codesOk = true := by
  have hall : ∀ x < alphabet, s.codeOf x = t.codeOf (BitVec.ofNat 9 x) := fun x hx => by
    have := hc (BitVec.ofNat 9 x)
    rwa [BitVec.toNat_ofNat, Nat.mod_eq_of_lt (Nat.lt_of_lt_of_le hx (by decide))] at this
  simpa [State.codesOk, ht] using .inr hall

/-- An alphabet's worth of leaves at most. -/
theorem BuiltLeaves.length_le {ls : List Sym} (h : BuiltLeaves ls) : ls.length ≤ 257 := by
  have hnd : (ls.map BitVec.toNat).Nodup := h.nodup.map fun _ _ => BitVec.eq_of_toNat_eq
  have hsub : ls.map BitVec.toNat ⊆ List.range 257 := fun n hn => by
    obtain ⟨x, hx, rfl⟩ := List.mem_map.1 hn
    exact List.mem_range.2 (Nat.lt_succ_of_le (h.le_eos x hx))
  simpa using (hnd.subperm hsub).length_le

/-- GENCODES makes the code table of the built tree in the arena (R105 to R108). -/
theorem gencodesBody_running {s : State} (h : s.RunningOk) (hv : s.treeValid = true) (ho : s.treeOrigin = .built) :
    (gencodesBody s).Safe fun _ => State.RunningOk := by
  obtain ⟨t, is, htree, hsub, hleaves⟩ := builtTree_of_arenaOk h.arena hv ho
  have hstart : (gencodesStart s).Subtree s.root t is := hsub.frame fun _ _ => rfl
  have hwalk := walk_safe hstart hleaves.nodup hleaves.le_eos arenaSize 0#9 0#256 (by simpa using hleaves.length_le)
    (.refl _)
  refine hwalk.seq fun u hu => ?_
  have hcodes : ∀ x : Sym, u.codeOf x.toNat = t.codeOf x := fun x => by
    rcases t.codeOf_cases x with hx | ⟨hx, hnone⟩
    · exact hu.inside x _ hx
    · rw [hu.outside x hx, gencodesStart_codeOf, hnone]
  obtain ⟨codeLen, codeBits, work, rfl⟩ := hu.frame
  have harena : s.SameArena { gencodesStart s with codeLen := codeLen, codeBits := codeBits, work := work, codesValid := true } :=
    ⟨rfl, rfl, rfl, rfl, rfl, rfl⟩
  exact
    { h.toCommandOk with
      codesBuilt := fun _ => ⟨hv, ho⟩
      arena := harena.arenaOk.trans h.arena
      codes := codesOk_of_tree (harena.tree.trans htree) hcodes
      queue := h.queue }

/-! ## The tree that RDHDR reads -/

/-- The entry that becomes the top of the whole tree when the subtree at `i` completes the innermost open node. -/
def topEntry (i : Idx) (stk : List StkEntry) : Idx :=
  match stk with
  | [] => i
  | e :: rest => topEntry e.idx rest

/-- `s.OpenNodes stk is`: the stack's nodes are internal, those marked so have their left subtree, and all of this stands in the
separate entries `is` (R22, R123). -/
inductive State.OpenNodes (s : State) : List StkEntry → List Idx → Prop where
  | nil : OpenNodes s [] []
  | left {e : StkEntry} {stk : List StkEntry} {js : List Idx} : (s.nodeAt e.idx).leaf = false → e.leftDone = false →
      OpenNodes s stk js → OpenNodes s (e :: stk) (e.idx :: js)
  | right {e : StkEntry} {stk : List StkEntry} {is js : List Idx} {t : Tree} : (s.nodeAt e.idx).leaf = false →
      e.leftDone = true → s.Subtree (s.nodeAt e.idx).left t is → OpenNodes s stk js →
      OpenNodes s (e :: stk) (e.idx :: (is ++ js))

theorem State.OpenNodes.frame {s u : State} {stk : List StkEntry} {is : List Idx} (h : s.OpenNodes stk is)
    (hu : ∀ j ∈ is, u.nodeAt j = s.nodeAt j) : u.OpenNodes stk is := by
  induction h with
  | nil => exact .nil
  | @left e _ _ hl hd _ ih =>
    have he := hu e.idx List.mem_cons_self
    exact .left (he ▸ hl) hd (ih fun j hj => hu j (List.mem_cons_of_mem _ hj))
  | @right e _ _ _ _ hl hd ht _ ih =>
    have he := hu e.idx List.mem_cons_self
    refine .right (he ▸ hl) hd (he ▸ ht.frame fun j hj => hu j ?_) (ih fun j hj => hu j ?_)
    · simp [hj]
    · simp [hj]

/-- The header read so far, in the entries `is`: the whole tree with its top at entry 0, or the open nodes, the outermost of them
at entry 0 (R123). -/
def State.HeaderIn (s : State) (is : List Idx) : Prop :=
  (s.work.stk = [] ∧ ∃ t js, s.Subtree 0#10 t js ∧ js.Perm is) ∨
  (s.work.stk ≠ [] ∧ ∃ js, s.OpenNodes s.work.stk js ∧ js.Perm is ∧ topEntry 0#10 s.work.stk = 0#10)

theorem State.HeaderIn.perm {s : State} {is js : List Idx} (h : s.HeaderIn is) (hp : is.Perm js) : s.HeaderIn js := by
  rcases h with ⟨hstk, t, ks, ht, hk⟩ | ⟨hstk, ks, ho, hk, h0⟩
  · exact .inl ⟨hstk, t, ks, ht, hk.trans hp⟩
  · exact .inr ⟨hstk, ks, ho, hk.trans hp, h0⟩

/-- `attach` changes the arena and the stack only. -/
theorem attach_frame (i : Idx) (stk : List StkEntry) (s : State) :
    ∃ node stk', attach i stk s = { s with node := node, work := { s.work with stk := stk' } } := by
  induction stk generalizing i s with
  | nil => exact ⟨_, _, rfl⟩
  | cons e rest ih =>
    unfold attach
    split
    · obtain ⟨node, stk', h⟩ := ih e.idx (s.setNode e.idx { s.nodeAt e.idx with right := i })
      exact ⟨node, stk', h⟩
    · exact ⟨_, _, rfl⟩

/-- A complete subtree goes to its place below the open nodes, and closes those it completes (R123). -/
theorem attach_headerIn {i : Idx} {t : Tree} {stk : List StkEntry} {is js : List Idx} {s : State} (ht : s.Subtree i t is)
    (ho : s.OpenNodes stk js) (hnd : (is ++ js).Nodup) (h0 : topEntry i stk = 0#10) :
    (attach i stk s).HeaderIn (is ++ js) := by
  induction stk generalizing i t is js s with
  | nil =>
    cases ho
    obtain rfl : i = 0#10 := h0
    exact .inl ⟨rfl, t, is, ht.frame fun _ _ => rfl, by simp⟩
  | cons e rest ih =>
    -- Only the node `e` is written, and it stands in none of the entries of a subtree or of another open node.
    have hwritten (n : Node) {ks : List Idx} (hk : e.idx ∉ ks) : ∀ k ∈ ks, (s.setNode e.idx n).nodeAt k = s.nodeAt k :=
      fun k hks => nodeAt_setNode_of_ne s n fun he => hk (he ▸ hks)
    have hself (n : Node) : (s.setNode e.idx n).nodeAt e.idx = n := nodeAt_setNode_self s e.idx n
    unfold attach
    cases ho with
    | @left _ _ js hl hd ho =>
      have hnotin := (List.nodup_cons.1 (List.nodup_middle.1 hnd)).1
      obtain ⟨hei, hej⟩ : e.idx ∉ is ∧ e.idx ∉ js := by simpa using hnotin
      rw [if_neg (by simp [hd])]
      refine State.HeaderIn.perm (is := e.idx :: (is ++ js)) ?_ List.perm_middle.symm
      have ht' := (ht.frame (hwritten { s.nodeAt e.idx with left := i } hei))
      have ho' := (ho.frame (hwritten { s.nodeAt e.idx with left := i } hej))
      have hopen : (s.setNode e.idx { s.nodeAt e.idx with left := i }).OpenNodes ({ e with leftDone := true } :: rest)
          (e.idx :: (is ++ js)) := .right (by rw [hself]; exact hl) rfl (by rw [hself]; exact ht') ho'
      exact .inr ⟨List.cons_ne_nil _ _, _, hopen.frame fun _ _ => rfl, .rfl, h0⟩
    | @right _ _ ls js l hl hd htl ho =>
      have hnotin := (List.nodup_cons.1 (List.nodup_middle.1 hnd)).1
      obtain ⟨hei, hel, hej⟩ : e.idx ∉ is ∧ e.idx ∉ ls ∧ e.idx ∉ js := by simpa using hnotin
      rw [if_pos hd]
      have hperm : (e.idx :: (ls ++ is) ++ js).Perm (is ++ e.idx :: (ls ++ js)) := by
        have hswap : (ls ++ is ++ js).Perm (is ++ (ls ++ js)) := by
          rw [← List.append_assoc is]
          exact List.perm_append_comm.append_right js
        exact (hswap.cons e.idx).trans List.perm_middle.symm
      have htl' := (htl.frame (hwritten { s.nodeAt e.idx with right := i } hel))
      have ht' := (ht.frame (hwritten { s.nodeAt e.idx with right := i } hei))
      have ho' := (ho.frame (hwritten { s.nodeAt e.idx with right := i } hej))
      have hnode : (s.setNode e.idx { s.nodeAt e.idx with right := i }).Subtree e.idx (.internal l t) (e.idx :: (ls ++ is)) :=
        .internal (by rw [hself]; exact hl) (by rw [hself]; exact htl') (by rw [hself]; exact ht')
      exact (ih hnode ho' (hperm.nodup_iff.2 hnd) h0).perm hperm

/-! ## RDHDR -/

/-- RDHDR between two operations: the tables are hidden and the queue is empty. -/
structure State.InHeader (s : State) : Prop extends s.TablesHidden where
  phase : s.phase = .rdhdr
  queue : s.pq = []
  inCap : s.nodeCount.toNat ≤ s.cfg.nodeCap

theorem State.InHeader.quiet {s t : State} (h : s.InHeader) (q : s.Quiet t) : t.InHeader where
  toTablesHidden := h.toTablesHidden.quiet q
  phase := q.phase.trans h.phase
  queue := q.pq.trans h.queue
  inCap := by rw [q.nodeCount, q.cfg]; exact h.inCap

theorem State.InHeader.grow {s : State} (h : s.InHeader) (hn : s.nodeCount.toNat ≠ s.cfg.nodeCap) (n : Node) :
    (s.grow n).InHeader :=
  have hlt : s.nodeCount.toNat < s.cfg.nodeCap := Nat.lt_of_le_of_ne h.inCap hn
  { h.toTablesHidden.grow n with
    phase := h.phase
    queue := h.queue
    inCap := by rw [grow_count h.cfgWf hlt]; exact hlt }

theorem State.InHeader.stalled {s : State} (h : s.InHeader) (ha : s.src.answers = some 0) : s.runOk = true :=
  (h.toTablesHidden.runningOk h.queue).stalled (by rw [State.atomicOk, h.phase]; exact decide_eq_true ha)
    fun _ => ⟨h.noTree, h.noCodes⟩

/-- Before a token: the open nodes are all that is allocated, the outermost of them first (R123). -/
structure State.BeforeToken (s : State) : Prop extends s.InHeader where
  nodes : ∃ is, s.OpenNodes s.work.stk is ∧ s.Allocated is
  top : topEntry s.nodeCount s.work.stk = 0#10

/-- After a token: the header read so far is all that is allocated. -/
structure State.AfterToken (s : State) : Prop extends s.InHeader where
  nodes : ∃ is, s.HeaderIn is ∧ s.Allocated is

/-- Between the flag bit and the symbol of a leaf, which has its entry `i` already (R123). -/
structure State.AtLeaf (i : Idx) (s : State) : Prop extends s.InHeader where
  leaf : (s.nodeAt i).leaf = true
  nodes : ∃ is, s.OpenNodes s.work.stk is ∧ s.Allocated (i :: is)
  top : topEntry i s.work.stk = 0#10

theorem State.BeforeToken.quiet {s t : State} (h : s.BeforeToken) (q : s.Quiet t) (hstk : t.work.stk = s.work.stk) :
    t.BeforeToken where
  toInHeader := h.toInHeader.quiet q
  nodes := by
    obtain ⟨is, ho, ha⟩ := h.nodes
    rw [hstk]
    exact ⟨is, ho.frame fun j _ => nodeAt_congr q.node j, ha.congr q.nodeCount⟩
  top := by rw [hstk, q.nodeCount]; exact h.top

theorem State.AtLeaf.quiet {i : Idx} {s t : State} (h : s.AtLeaf i) (q : s.Quiet t) (hstk : t.work.stk = s.work.stk) :
    t.AtLeaf i where
  toInHeader := h.toInHeader.quiet q
  leaf := by rw [nodeAt_congr q.node]; exact h.leaf
  nodes := by
    obtain ⟨is, ho, ha⟩ := h.nodes
    rw [hstk]
    exact ⟨is, ho.frame fun j _ => nodeAt_congr q.node j, ha.congr q.nodeCount⟩
  top := by rw [hstk]; exact h.top

theorem State.OpenNodes.grow {s : State} {stk : List StkEntry} {is : List Idx} (h : s.OpenNodes stk is)
    (hfree : s.nodeCount ∉ is) (n : Node) : (s.grow n).OpenNodes stk is :=
  h.frame fun _ hj => s.grow_nodeAt_old n fun e => hfree (e ▸ hj)

/-- A flag bit 0 opens a node (R123). -/
theorem openNode_safe {s : State} (h : s.BeforeToken) : (openNode s).Safe fun _ => State.AfterToken := by
  refine (alloc_safe h.toCommandOk _ fun _ => h.queue).bind ?_
  rintro _ _ ⟨hn, rfl, rfl⟩
  obtain ⟨is, ho, ha⟩ := h.nodes
  have hin := h.toInHeader.grow hn (internalNode 0#40 0#10 0#10)
  have hopen : (s.grow (internalNode 0#40 0#10 0#10)).OpenNodes ({ idx := s.nodeCount, leftDone := false } :: s.work.stk)
      (s.nodeCount :: is) := .left (by rw [s.grow_nodeAt_new]; rfl) rfl (ho.grow ha.fresh _)
  have halloc := ha.grow h.cfgWf (Nat.lt_of_le_of_ne h.inCap hn) (internalNode 0#40 0#10 0#10)
  exact { hin with
    nodes := ⟨_, .inr ⟨List.cons_ne_nil _ _, _, hopen.frame fun _ _ => rfl, .rfl, h.top⟩, halloc⟩ }

/-- A flag bit 1 takes an entry for a leaf (R123). -/
theorem openLeaf_safe {s : State} (h : s.BeforeToken) : (openLeaf s).Safe State.AtLeaf := by
  refine (alloc_safe h.toCommandOk _ fun _ => h.queue).mono ?_
  rintro _ _ ⟨hn, rfl, rfl⟩
  obtain ⟨is, ho, ha⟩ := h.nodes
  exact { h.toInHeader.grow hn (leafNode 0#9 0#40) with
    leaf := by rw [s.grow_nodeAt_new]; rfl
    nodes := ⟨is, ho.grow ha.fresh _, ha.grow h.cfgWf (Nat.lt_of_le_of_ne h.inCap hn) _⟩
    top := h.top }

/-- The symbol completes the leaf, and with it the nodes it is the last leaf of (R123). -/
theorem closeLeaf_afterToken {i : Idx} (sym : Sym) {s : State} (h : s.AtLeaf i) : (closeLeaf i sym s).AfterToken := by
  obtain ⟨is, ho, ha⟩ := h.nodes
  have hfree : i ∉ is := (List.nodup_cons.1 ha.nodup).1
  have hleaf : (s.setNode i { s.nodeAt i with sym := sym }).Subtree i (.leaf sym) [i] :=
    .leaf (by rw [nodeAt_setNode_self]; exact h.leaf) (by rw [nodeAt_setNode_self])
  have hopen : (s.setNode i { s.nodeAt i with sym := sym }).OpenNodes s.work.stk is :=
    ho.frame fun j hj => nodeAt_setNode_of_ne s _ fun e => hfree (e ▸ hj)
  have hheader := attach_headerIn hleaf hopen ha.nodup h.top
  obtain ⟨node, stk, hframe⟩ := attach_frame i s.work.stk (s.setNode i { s.nodeAt i with sym := sym })
  rw [hframe] at hheader
  rw [closeLeaf, hframe]
  exact { h.toCommandOk with
    noTree := h.noTree
    noCodes := h.noCodes
    phase := h.phase
    queue := h.queue
    inCap := h.inCap
    nodes := ⟨_, hheader, ha⟩ }

theorem readToken_safe {s : State} (h : s.BeforeToken) : (readToken s).Safe fun _ => State.AfterToken := by
  refine (srcRead_safe 1 h.stalled fun _ => h.quiet).bind fun f t ht => ?_
  cases f with
  | none => exact ht.raise ht.queue _
  | some v =>
    dsimp only
    split
    · refine (openLeaf_safe ht).bind fun i u hu => (srcRead_safe 9 hu.stalled fun _ => hu.quiet).bind fun w v hv => ?_
      cases w with
      | none => exact hv.raise hv.queue _
      | some w => exact closeLeaf_afterToken _ hv
    · exact openNode_safe ht

/-- A token that leaves nodes open is followed by another (R123). -/
theorem State.AfterToken.beforeToken {s : State} (h : s.AfterToken) (hstk : s.work.stk ≠ []) : s.BeforeToken := by
  obtain ⟨is, hin, ha⟩ := h.nodes
  rcases hin with ⟨hnil, -⟩ | ⟨-, js, ho, hp, h0⟩
  · exact absurd hnil hstk
  · refine { h with nodes := ⟨js, ho, hp.trans ha⟩, top := ?_ }
    cases hs : s.work.stk with
    | nil => exact absurd hs hstk
    | cons e rest => rw [hs] at h0; exact h0

theorem readTokens_safe (bound : Nat) {s : State} (h : s.BeforeToken) :
    (readTokens bound s).Safe fun _ t => t.AfterToken ∧ t.work.stk = [] := by
  induction bound generalizing s with
  | zero => trivial
  | succ bound ih =>
    refine (readToken_safe h).bind fun _ t ht => ?_
    dsimp only
    split
    · next hstk => exact ⟨ht, hstk⟩
    · next hstk => exact ih (ht.beforeToken hstk)

/-- The whole header makes a valid arena, unless its tree is a lone leaf (R122, R127). -/
theorem rdhdrEnd_running {s : State} (h : s.AfterToken) (hstk : s.work.stk = []) :
    (rdhdrEnd s).Safe fun _ => State.RunningOk := by
  obtain ⟨is, hin, ha⟩ := h.nodes
  rcases hin with ⟨-, t, js, ht, hp⟩ | ⟨hne, -⟩
  · unfold rdhdrEnd
    split
    · exact h.raise h.queue _
    · next hleaf =>
      have hint : t.isInternal = true := by
        cases ht with
        | leaf hl _ => exact absurd hl hleaf
        | internal => rfl
      have hholds : State.HoldsTree { s with root := 0#10, treeOrigin := .parsed, treeValid := true } t :=
        ⟨⟨js, ht.frame fun _ _ => rfl, hp.trans ha⟩, hint, h.inCap⟩
      exact { h.toCommandOk with
        codesBuilt := fun hc => by rw [h.noCodes] at hc; cases hc
        arena := hholds.arenaOk (.inl rfl)
        codes := codesOk_of_invalid h.noCodes
        queue := h.queue }
  · exact absurd hstk hne

theorem rdhdrStart_beforeToken {s : State} (h : s.RunningOk) : (rdhdrStart s).BeforeToken :=
  { h.toCommandOk with
    noTree := rfl
    noCodes := rfl
    phase := rfl
    queue := h.queue
    inCap := Nat.zero_le _
    nodes := ⟨[], .nil, .rfl⟩
    top := rfl }

theorem rdhdrBody_running {s : State} (h : s.RunningOk) : (rdhdrBody s).Safe fun _ => State.RunningOk :=
  (readTokens_safe _ (rdhdrStart_beforeToken h)).seq fun _ ⟨ht, hstk⟩ => rdhdrEnd_running ht hstk

/-! ## COMPRESS and DECOMPRESS -/

theorem compressBody_running {s : State} (h : s.RunningOk) : (compressBody s).Safe fun _ => State.RunningOk := by
  refine (((analyzeBody_running h).seq fun t ht => buildBody_running ht).seq fun t ⟨ht, hv, ho⟩ =>
    gencodesBody_running ht hv ho).seq fun t ht => ?_
  exact (wrmagicBody_running ht).seq fun u hu => (wrhdrBody_running hu).seq fun v hv => (encbodyBody_running hv).seq
    fun w hw => closeBody_running hw

theorem decompressBody_running {s : State} (h : s.RunningOk) : (decompressBody s).Safe fun _ => State.RunningOk :=
  (rdmagicBody_running h).seq fun _ ht => (rdhdrBody_running ht).seq fun _ hu => (decbodyBody_running hu).seq fun _ hv =>
    closeBody_running hv

/-! ## Tokens: between steps a command with tokens stands at a stalled stream -/

/-- A state of a run in a phase that reads the header or the magic waits for its source (R6, R201). -/
theorem source_stalls {s : State} (h : s.runOk = true) (hp : s.phase = .rdhdr ∨ s.phase = .rdmagic) :
    s.src.answers = some 0 := by
  obtain ⟨-, -, ha, -⟩ := runOk_iff.1 h
  rcases hp with hp | hp
  · simpa [State.atomicOk, hp] using ha
  · simpa [State.atomicOk, hp] using ha

theorem sink_stalls {s : State} (h : s.runOk = true) (hp : s.phase = .wrhdr ∨ s.phase = .wrmagic) :
    s.snk.answers = some 0 := by
  obtain ⟨-, -, ha, -⟩ := runOk_iff.1 h
  rcases hp with hp | hp
  · simpa [State.atomicOk, hp] using ha
  · simpa [State.atomicOk, hp] using ha

/-- A read from a stalled source stalls again. -/
theorem srcRead_stalls (n : Nat) {s : State} (h : s.runOk = true) (hp : s.phase = .rdhdr ∨ s.phase = .rdmagic) :
    (srcRead n s).Safe fun _ _ => False := by
  rcases srcRead_cases n s with ⟨-, e⟩ | ⟨_, hne, -⟩ | ⟨hne, -⟩
  · rw [e]; exact h
  · exact absurd (source_stalls h hp) hne
  · exact absurd (source_stalls h hp) hne

/-- A write to a stalled sink stalls again, or is refused. -/
theorem sinkWrite_stalls (n : Nat) (v : BitVec 32) {s : State} (h : s.runOk = true)
    (hp : s.phase = .wrhdr ∨ s.phase = .wrmagic) : (sinkWrite n v s).Safe fun _ _ => False := by
  rcases sinkWrite_cases n v s with ⟨-, e⟩ | ⟨-, -, e⟩ | ⟨-, hne, -⟩
  · rw [e]; trivial
  · rw [e]; exact h
  · exact absurd (sink_stalls h hp) hne

theorem execHdrNode_keeps_runOk {s t : State} (h : s.runOk = true) (ht : execHdrNode s = .next t) : t.runOk = true := by
  unfold execHdrNode at ht
  split at ht
  · next hp => exact (srcRead_stalls 1 h (.inl hp)).bind_of_false.seq_of_false.settle ht
  · next hp =>
    refine Res.Safe.settle (Res.Safe.seq_of_false ?_) ht
    unfold writeNodeToken
    split
    · trivial
    · exact (sinkWrite_stalls 1 _ h (.inl hp)).seq_of_false
  · cases ht

theorem execHdrLeaf_keeps_runOk (sym : Sym) {s t : State} (h : s.runOk = true) (ht : execHdrLeaf sym s = .next t) :
    t.runOk = true := by
  unfold execHdrLeaf at ht
  split at ht
  · next hp => exact (srcRead_stalls 1 h (.inl hp)).bind_of_false.seq_of_false.settle ht
  · next hp =>
    refine Res.Safe.settle (Res.Safe.seq_of_false ?_) ht
    unfold writeLeafToken
    split
    · trivial
    · exact (sinkWrite_stalls 1 _ h (.inl hp)).seq_of_false
  · cases ht

theorem execFileMagic_keeps_runOk {s t : State} (h : s.runOk = true) (ht : execFileMagic s = .next t) : t.runOk = true := by
  unfold execFileMagic at ht
  split at ht
  · next hp => exact (srcRead_stalls 32 h (.inr hp)).bind_of_false.seq_of_false.settle ht
  · next hp => exact (sinkWrite_stalls 32 _ h (.inr hp)).seq_of_false.settle ht
  · cases ht

/-! ## Instructions -/

theorem runOk_coreReset {s : State} (hcfg : s.cfg.wf = true) (hmem : Memory.wf s = true) : (coreReset s).runOk = true :=
  runOk_iff.2 ⟨hcfg, sequencerOk_iff.2 (by simp), rfl, arenaOk_of_invalid rfl, codesOk_of_invalid rfl, hmem, rfl⟩

theorem execClear_keeps_runOk {s t : State} (h : s.runOk = true) (ht : execClear s = .next t) : t.runOk = true := by
  obtain ⟨hcfg, -, -, -, -, hmem, -⟩ := runOk_iff.1 h
  rcases execClear_cases s with ⟨-, e⟩ | ⟨-, e⟩ <;> rw [e] at ht <;> cases ht
  · exact h
  · exact runOk_coreReset hcfg hmem

theorem acceptIllegal_keeps_runOk {s t : State} (h : s.runOk = true) (ht : acceptIllegal s = .next t) : t.runOk = true := by
  obtain ⟨hcfg, -, -, -, -, hmem, hq⟩ := runOk_iff.1 h
  rcases acceptIllegal_cases s with ⟨-, e⟩ | ⟨-, -, e⟩ <;> rw [e] at ht <;> cases ht
  · exact h
  · exact runOk_raiseErr hcfg hmem hq _

theorem execBuild_keeps_runOk {s t : State} (h : s.runOk = true) (ht : execBuild s = .next t) : t.runOk = true :=
  accept_keeps_runOk h (fun _ hs => (buildBody_running hs).mono fun _ _ hu => hu.1) ht

theorem execGencodes_keeps_runOk {s t : State} (h : s.runOk = true) (ht : execGencodes s = .next t) : t.runOk = true :=
  accept_keeps_runOk h (fun hpre hs => by
    obtain ⟨hv, ho⟩ : s.treeValid = true ∧ s.treeOrigin = .built := by simpa [gencodesReady] using hpre
    exact gencodesBody_running hs hv ho) ht

/-- Every instruction, in every state of a run, keeps the invariant. -/
theorem exec_keeps_runOk (i : Instr) {s t : State} (h : s.runOk = true) (ht : exec i s = .next t) : t.runOk = true := by
  cases i with
  | analyze => exact accept_keeps_runOk h (fun _ => analyzeBody_running) ht
  | build => exact execBuild_keeps_runOk h ht
  | gencodes => exact execGencodes_keeps_runOk h ht
  | wrmagic => exact accept_keeps_runOk h (fun _ => wrmagicBody_running) ht
  | wrhdr => exact accept_keeps_runOk h (fun _ => wrhdrBody_running) ht
  | encbody => exact accept_keeps_runOk h (fun _ => encbodyBody_running) ht
  | close => exact accept_keeps_runOk h (fun _ => closeBody_running) ht
  | rdmagic => exact accept_keeps_runOk h (fun _ => rdmagicBody_running) ht
  | rdhdr => exact accept_keeps_runOk h (fun _ => rdhdrBody_running) ht
  | decbody => exact accept_keeps_runOk h (fun _ => decbodyBody_running) ht
  | compress => exact accept_keeps_runOk h (fun _ => compressBody_running) ht
  | decompress => exact accept_keeps_runOk h (fun _ => decompressBody_running) ht
  | clear => exact execClear_keeps_runOk h ht
  | illegal0 | illegalE | illegalF | illegalDefault v => exact acceptIllegal_keeps_runOk h ht
  | hdrNode => exact execHdrNode_keeps_runOk h ht
  | hdrLeaf sym => exact execHdrLeaf_keeps_runOk sym h ht
  | fileMagic => exact execFileMagic_keeps_runOk h ht

/-! ## The host's actions and the step -/

/-- The host port is no part of the invariant. -/
theorem runOk_hostPort {s : State} (h : s.runOk = true) (sel : BitVec 10) (pending : List HostAction) (rdata : Reg)
    (freeCount : Nat) :
    State.runOk { s with sel := sel, pending := pending, rdata := rdata, freeCount := freeCount } = true := by
  obtain ⟨hcfg, hseq, hatomic, harena, hcodes, hmem, hq⟩ := runOk_iff.1 h
  have hsame := sameTables_update s s.phase s.errCode s.busy s.done s.freqValid s.work s.cursor s.src s.snk sel pending
    rdata freeCount
  exact runOk_iff.2 ⟨hcfg, hseq, hatomic, hsame.arenaOk.trans harena, hsame.codesOk.trans hcodes, hmem, hq⟩

/-- A CORE that runs no command does not mind other streams in their form. -/
theorem runOk_openStreams {s : State} (h : s.runOk = true) (hb : s.busy = false) (src : Source) (snk : Sink)
    (hsrc : src.pos ≤ src.bits.length) : State.runOk { s with src := src, snk := snk } = true := by
  obtain ⟨hcfg, hseq, -, harena, hcodes, -, hq⟩ := runOk_iff.1 h
  have hsame := sameTables_update s s.phase s.errCode s.busy s.done s.freqValid s.work s.cursor src snk s.sel s.pending
    s.rdata s.freeCount
  have hatomic : State.atomicOk { s with src := src, snk := snk } = true := by
    rcases phase_of_not_busy h hb with hp | hp <;> simp [State.atomicOk, hp, hb]
  exact runOk_iff.2 ⟨hcfg, hseq, hatomic, hsame.arenaOk.trans harena, hsame.codesOk.trans hcodes, wf_iff.2 hsrc, hq⟩

theorem hostAct_keeps_runOk (a : HostAction) {s t : State} (h : s.runOk = true) (ht : hostAct a s = .next t) :
    t.runOk = true := by
  obtain ⟨hcfg, -, -, -, -, hmem, -⟩ := runOk_iff.1 h
  have hform : Memory.wf t = true := hostAct_wf a hmem ht
  cases a with
  | write addr data =>
    simp only [hostAct, writeReg] at ht
    split at ht <;> cases ht
    · exact runOk_hostPort h _ _ _ _
    · exact h
  | read addr =>
    simp only [hostAct, readReg] at ht
    split at ht <;> cases ht <;> exact runOk_hostPort h _ _ _ _
  | reset =>
    have hcfg' : (abandon s).cfg.wf = true := by
      unfold abandon
      split <;> exact hcfg
    cases ht
    exact runOk_coreReset hcfg' hform
  | openSource bits pos answers =>
    simp only [hostAct] at ht
    split at ht <;> cases ht
    next hb => exact runOk_openStreams h (by simpa using hb) _ _ (Nat.min_le_right _ _)
  | openSink bits closed answers =>
    simp only [hostAct] at ht
    split at ht <;> cases ht
    next hb => exact runOk_openStreams h (by simpa using hb) _ _ (wf_iff.1 hmem)

/-- What there is to do next: an instruction in a state of a run, or an outcome that is one. -/
def Fetched.Safe (f : Fetched) : Prop :=
  match f with
  | .run _ s => s.runOk = true
  | .done o => ∀ t, o = .next t → t.runOk = true

theorem fetchToken_safe {s : State} (h : s.runOk = true) : (fetchToken s).Safe := by
  have hwait : (Fetched.done (.next s)).Safe := fun t ht => by cases ht; exact h
  unfold fetchToken
  split
  · next hp =>
    split
    · exact h
    · exact fun t ht => (srcRead_stalls 32 h (.inr hp)).bind_of_false.settle ht
  · next hp =>
    split
    · exact h
    · exact fun t ht => (srcRead_stalls 1 h (.inl hp)).bind_of_false.settle ht
  · exact h
  · split
    · exact hwait
    · exact h
  all_goals exact hwait

theorem fetch_safe {s : State} (h : s.runOk = true) : (fetch s).Safe := by
  have hpop (rest : List HostAction) : State.runOk { s with pending := rest } = true := runOk_hostPort h _ rest _ _
  have hact (a : HostAction) (rest : List HostAction) : (Fetched.done (hostAct a { s with pending := rest })).Safe :=
    fun t ht => hostAct_keeps_runOk a (hpop rest) ht
  unfold fetch
  split
  · split
    · exact hpop _
    · exact hact _ _
  · exact hact _ _
  · exact hact _ _
  · exact hact _ _
  · exact hact _ _
  · split
    · exact fetchToken_safe h
    · exact fun t ht => by cases ht; exact h

/-- Settles O14: a command keeps the invariant from its start to its end, to an error and to a stall; the token of a command that
stalled stalls again; the host can only reset, or replace a stream between commands. -/
theorem stepKeepsRunOk : Obligations.StepKeepsRunOk := by
  unfold Obligations.StepKeepsRunOk
  intro s t h ht
  have hfetch := fetch_safe h
  unfold step at ht
  split at ht
  · next i u hu =>
    rw [hu] at hfetch
    exact exec_keeps_runOk i hfetch ht
  · next o ho =>
    rw [ho] at hfetch
    exact hfetch t ht

end Sys2Proof.Machine
end

section
/-!
PROOF SUPPORT. What every part of a command does, said once: it keeps a view of the state, it only reads the source and only
appends to the sink, and it sees neither the selector nor the register `macroCmd`, so that it runs alike whatever they hold.
`IsPart v c` is that judgement of the part `c` with the view `v`; it holds of every operation inside a phase with the view
`State.control`, and of every body of a command with the view `State.cfg`.
-/
namespace Sys2Proof.Machine

/-! ## The judgement of a part of a command -/

/-- From `s` to `t` the source is only read and the sink only appended to, and not after it is closed (R41 to R45). -/
structure State.StreamsKept (s t : State) : Prop where
  source : t.src.bits = s.src.bits
  appended : s.snk.bits <+: t.snk.bits
  closed : s.snk.closed = true → t.snk = s.snk

theorem State.StreamsKept.of_eq {s t : State} (hsrc : t.src.bits = s.src.bits) (hsnk : t.snk = s.snk) :
    s.StreamsKept t where
  source := hsrc
  appended := by rw [hsnk]
  closed _ := hsnk

theorem State.StreamsKept.trans {s t u : State} (h : s.StreamsKept t) (h' : t.StreamsKept u) : s.StreamsKept u where
  source := h'.source.trans h.source
  appended := h.appended.trans h'.appended
  closed hc := by
    have ht := h.closed hc
    rw [h'.closed (ht ▸ hc), ht]

/-- The registers that no part of a command reads, changed: the selector (R21) and `macroCmd` (R22), which says only what follows
a header or the magic. -/
def State.relabel (f : BitVec 10 → BitVec 10) (g : BitVec 2 → BitVec 2) (s : State) : State :=
  { s with sel := f s.sel, work := { s.work with macroCmd := g s.work.macroCmd } }

theorem State.relabel_phase (f : BitVec 10 → BitVec 10) (g : BitVec 2 → BitVec 2) (s : State) :
    (s.relabel f g).phase = s.phase := rfl

/-- A result with the state so far changed. -/
def Res.map {α : Type} (u : State → State) (r : Res α) : Res α :=
  match r with
  | .ok a s => .ok a (u s)
  | .stop q s => .stop q (u s)

/-- `r` keeps what the view `v` shows of `s` and treats the streams as it may, and `r'` is `r` relabelled. -/
structure Res.Like {α β : Type} (f : BitVec 10 → BitVec 10) (g : BitVec 2 → BitVec 2) (v : State → β) (s : State)
    (r r' : Res α) : Prop where
  relabelled : r' = r.map (State.relabel f g)
  kept : r.Ends fun t => v t = v s ∧ s.StreamsKept t

/-- `c` is a part of a command that keeps the view `v`. -/
def IsPart {α β : Type} (v : State → β) (c : State → Res α) : Prop :=
  ∀ f g s, (c s).Like f g v s (c (s.relabel f g))

/-- The view that every part of a command inside one phase keeps: the configuration, the sequencer's registers and the host port;
the tables, the working registers, the cursor and the streams are blanked. -/
def State.control (s : State) : State :=
  { s with
    freq := State.reset.freq, node := State.reset.node, nodeCount := 0#10, root := 0#10, pq := []
    codeLen := State.reset.codeLen, codeBits := State.reset.codeBits, cursor := 0#10, work := State.reset.work
    src := State.reset.src, snk := State.reset.snk, trace := [], freeCount := 0 }

section
variable {α β : Type} {f : BitVec 10 → BitVec 10} {g : BitVec 2 → BitVec 2} {v : State → β} {s t : State}

theorem Res.Like.ok (a : α) (hv : v t = v s) (hk : s.StreamsKept t) :
    (Res.ok a t).Like f g v s (.ok a (t.relabel f g)) := ⟨rfl, hv, hk⟩

theorem Res.Like.stop (q : Stop) (s : State) : (Res.stop q s : Res α).Like f g v s (.stop q (s.relabel f g)) :=
  ⟨rfl, rfl, .of_eq rfl rfl⟩

/-- A part ends with an update that keeps the view, the source's content and the sink. -/
theorem Res.Like.update (a : α) (hv : v t = v s) (hsrc : t.src.bits = s.src.bits) (hsnk : t.snk = s.snk) :
    (Res.ok a t).Like f g v s (.ok a (t.relabel f g)) := .ok a hv (.of_eq hsrc hsnk)

/-- A part begins after an update that keeps the view and treats the streams as it may. -/
theorem Res.Like.after {r r' : Res α} (t : State) (hv : v t = v s) (hk : s.StreamsKept t) (h : r.Like f g v t r') :
    r.Like f g v s r' where
  relabelled := h.relabelled
  kept := h.kept.mono fun _ ⟨hv', hk'⟩ => ⟨hv'.trans hv, hk.trans hk'⟩

theorem Res.Like.bind {γ : Type} {r r' : Res γ} {k k' : γ → State → Res α} (h : r.Like f g v s r')
    (hk : ∀ a t, (k a t).Like f g v t (k' a (t.relabel f g))) : (r.bind k).Like f g v s (r'.bind k') := by
  obtain ⟨rfl, hkept⟩ := h
  cases r with
  | ok a t => exact .after t hkept.1 hkept.2 (hk a t)
  | stop q t => exact ⟨rfl, hkept⟩

theorem Res.Like.seq {r r' : Res Unit} {k k' : State → Res Unit} (h : r.Like f g v s r')
    (hk : ∀ t, (k t).Like f g v t (k' (t.relabel f g))) : (r.seq k).Like f g v s (r'.seq k') :=
  h.bind fun _ => hk

theorem Res.Like.ite {p : Prop} [Decidable p] {a a' b b' : Res α} (ha : p → a.Like f g v s a')
    (hb : ¬p → b.Like f g v s b') : (if p then a else b).Like f g v s (if p then a' else b') := by
  split
  · exact ha ‹_›
  · exact hb ‹_›

end

/-- What is kept inside a phase is kept of the configuration. -/
theorem IsPart.cfg {α : Type} {c : State → Res α} (h : IsPart State.control c) : IsPart State.cfg c := fun f g s =>
  { h f g s with kept := (h f g s).kept.mono fun t ⟨hv, hk⟩ => ⟨show t.control.cfg = s.control.cfg by rw [hv], hk⟩ }

/-- One part after another. -/
theorem IsPart.seq {β : Type} {v : State → β} {c d : State → Res Unit} (hc : IsPart v c) (hd : IsPart v d) :
    IsPart v fun s => (c s).seq d := fun f g s => (hc f g s).seq (hd f g)

/-! ## The primitives -/

theorem srcRead_part (n : Nat) : IsPart State.control (srcRead n) := fun f g s => by
  unfold srcRead
  refine .ite (fun _ => ?_) fun _ => .stop _ s
  change Res.Like f g _ s _ (match s.src.peek n with | some _ => _ | none => _)
  cases s.src.peek n with
  | some v => exact .update _ rfl rfl rfl
  | none => exact .update _ rfl rfl rfl

theorem srcReset_part : IsPart State.control srcReset := fun _ _ s =>
  .ite (fun _ => .update _ rfl rfl rfl) fun _ => .stop _ s

theorem sinkWrite_part (n : Nat) (v : BitVec 32) : IsPart State.control (sinkWrite n v) := fun _ _ s =>
  .ite (fun _ => .stop _ s) fun hopen => .ite
    (fun _ => .ok _ rfl ⟨rfl, List.prefix_append _ _, fun hc => absurd hc hopen⟩) fun _ => .stop _ s

theorem sinkClose_part : IsPart State.control sinkClose := fun _ _ s =>
  .ite (fun _ => .stop _ s) fun hopen => .ite
    (fun _ => .ok _ rfl ⟨rfl, List.prefix_append _ _, fun hc => absurd hc hopen⟩) fun _ => .stop _ s

theorem alloc_part (n : Node) : IsPart State.control (alloc n) := fun _ _ s =>
  .ite (fun _ => .stop _ s) fun _ => .update _ rfl rfl rfl

theorem removeMin_part : IsPart State.control removeMin := fun f g s => by
  unfold removeMin
  change Res.Like f g _ s _ (match s.pq with | [] => _ | _ :: _ => _)
  cases s.pq with
  | nil => exact .stop _ s
  | cons e rest => exact .update _ rfl rfl rfl

/-! ## The parts of ANALYZE, BUILD and GENCODES -/

theorem countWord_part (x : BitVec 8) : IsPart State.control (countWord x) := fun _ _ s =>
  .ite (fun _ => .stop _ s) fun _ => .update _ rfl rfl rfl

theorem analyzeLoop_part (bound : Nat) : IsPart State.control (analyzeLoop bound) := fun f g s => by
  induction bound generalizing s with
  | zero => exact .stop _ s
  | succ bound ih =>
    refine (srcRead_part 8 f g s).bind fun v t => ?_
    cases v with
    | none => exact .update _ rfl rfl rfl
    | some w => exact (countWord_part _ f g t).seq ih

theorem loadLeaf_part (sym : Nat) (c : Count) : IsPart State.control (loadLeaf sym c) := fun f g s =>
  .ite (fun _ => .update _ rfl rfl rfl) fun _ =>
    (alloc_part _ f g s).bind fun _ _ => .update _ rfl rfl rfl

theorem loadLeaves_part (sym : Nat) (counts : List Count) : IsPart State.control (loadLeaves sym counts) := fun f g s => by
  induction counts generalizing sym s with
  | nil => exact .update _ rfl rfl rfl
  | cons c cs ih => exact (loadLeaf_part sym c f g s).seq (ih (sym + 1))

theorem mergeOnce_part : IsPart State.control mergeOnce := fun f g s =>
  (removeMin_part f g s).bind fun a t => .after { t with work := { t.work with a := a } } rfl (.of_eq rfl rfl) <|
    (removeMin_part f g _).bind fun b u => .after { u with work := { u.work with b := b } } rfl (.of_eq rfl rfl) <|
      (alloc_part _ f g _).bind fun _ _ => .update _ rfl rfl rfl

theorem mergeLoop_part (bound : Nat) : IsPart State.control (mergeLoop bound) := fun f g s => by
  induction bound generalizing s with
  | zero => exact .update _ rfl rfl rfl
  | succ bound ih => exact .ite (fun _ => (mergeOnce_part f g s).seq ih) fun _ => .update _ rfl rfl rfl

theorem degenerate_part : IsPart State.control degenerate := fun f g s =>
  (removeMin_part f g s).bind fun a t => .after { t with work := { t.work with a := a } } rfl (.of_eq rfl rfl) <|
    (alloc_part _ f g _).bind fun _ u => (alloc_part _ f g u).bind fun _ _ => .update _ rfl rfl rfl

theorem mergeAll_part : IsPart State.control mergeAll := fun f g s =>
  (mergeLoop_part _ f g s).seq fun t => (removeMin_part f g t).bind fun _ _ => .update _ rfl rfl rfl

theorem walk_part (bound : Nat) (i : Idx) (len : Len) (bits : CodeBits) :
    IsPart State.control (walk bound i len bits) := fun f g s => by
  induction bound generalizing i len bits s with
  | zero => exact .stop _ s
  | succ bound ih =>
    exact .after (s.setPath len bits) rfl (.of_eq rfl rfl) <|
      .ite (fun _ => .update _ rfl rfl rfl) fun _ => (ih _ _ _ _).seq fun _ => ih _ _ _ _

/-! ## The parts of WRHDR, ENCBODY and DECBODY -/

theorem writeNodeToken_part : IsPart State.control writeNodeToken := fun f g s => by
  unfold writeNodeToken
  change Res.Like f g _ s _ (match s.work.stk with | [] => _ | _ :: _ => _)
  cases s.work.stk with
  | nil => exact .stop _ s
  | cons e rest => exact (sinkWrite_part 1 _ f g s).seq fun _ => .update _ rfl rfl rfl

theorem writeLeafToken_part (sym : Sym) : IsPart State.control (writeLeafToken sym) := fun f g s => by
  unfold writeLeafToken
  change Res.Like f g _ s _ (match s.work.stk with | [] => _ | _ :: _ => _)
  cases s.work.stk with
  | nil => exact .stop _ s
  | cons e rest =>
    exact (sinkWrite_part 1 _ f g s).seq fun t => (sinkWrite_part 9 _ f g t).seq fun _ => .update _ rfl rfl rfl

theorem writeToken_part (n : Node) : IsPart State.control (writeToken n) := fun f g s =>
  .ite (fun _ => writeLeafToken_part _ f g s) fun _ => writeNodeToken_part f g s

theorem writeTokens_part (bound : Nat) : IsPart State.control (writeTokens bound) := fun f g s => by
  induction bound generalizing s with
  | zero => exact .stop _ s
  | succ bound ih =>
    unfold writeTokens
    change Res.Like f g _ s _ (match s.work.stk with | [] => _ | _ :: _ => _)
    cases s.work.stk with
    | nil => exact .update _ rfl rfl rfl
    | cons e rest => exact (writeToken_part _ f g s).seq ih

theorem emitBits_part (bits : List Bool) : IsPart State.control (emitBits bits) := fun f g s => by
  induction bits generalizing s with
  | nil => exact .update _ rfl rfl rfl
  | cons b bs ih => exact (sinkWrite_part 1 _ f g s).seq ih

theorem emitCode_part (sym : Nat) : IsPart State.control (emitCode sym) := fun f g s => emitBits_part _ f g s

theorem encodeWord_part (x : BitVec 8) : IsPart State.control (encodeWord x) := fun f g s =>
  .ite (fun _ => .stop _ s) fun _ => emitCode_part _ f g s

theorem encodeLoop_part (bound : Nat) : IsPart State.control (encodeLoop bound) := fun f g s => by
  induction bound generalizing s with
  | zero => exact .stop _ s
  | succ bound ih =>
    refine (srcRead_part 8 f g s).bind fun v t => ?_
    cases v with
    | none => exact .update _ rfl rfl rfl
    | some w => exact (encodeWord_part _ f g t).seq ih

theorem writeDecoded_part : IsPart State.control writeDecoded := fun f g s =>
  (sinkWrite_part 8 _ f g s).seq fun _ => .update _ rfl rfl rfl

theorem decodeLoop_part (bound : Nat) : IsPart State.control (decodeLoop bound) := fun f g s => by
  induction bound generalizing s with
  | zero => exact .stop _ s
  | succ bound ih =>
    refine (srcRead_part 1 f g s).bind fun v t => ?_
    cases v with
    | none => exact .stop _ t
    | some b =>
      exact .after (moveCursor (b.getLsbD 0) t) rfl (.of_eq rfl rfl) <|
        .ite (fun _ => .ite (fun _ => .update _ rfl rfl rfl) fun _ => (writeDecoded_part f g _).seq ih) fun _ => ih _

/-! ## The parts of RDMAGIC and RDHDR -/

theorem readMagic_part : IsPart State.control readMagic := fun f g s =>
  (srcRead_part 32 f g s).bind fun v t => by
    cases v with
    | none => exact .stop _ t
    | some w => exact .ite (fun _ => .update _ rfl rfl rfl) fun _ => .stop _ t

theorem openNode_part : IsPart State.control openNode := fun f g s =>
  (alloc_part _ f g s).bind fun _ _ => .update _ rfl rfl rfl

theorem attach_relabel (f : BitVec 10 → BitVec 10) (g : BitVec 2 → BitVec 2) (i : Idx) (stk : List StkEntry) (s : State) :
    attach i stk (s.relabel f g) = (attach i stk s).relabel f g := by
  induction stk generalizing i s with
  | nil => rfl
  | cons e rest ih =>
    unfold attach
    split
    · exact ih e.idx (s.setNode e.idx { s.nodeAt e.idx with right := i })
    · rfl

theorem closeLeaf_like (f : BitVec 10 → BitVec 10) (g : BitVec 2 → BitVec 2) (i : Idx) (sym : Sym) (s : State) :
    (Res.ok () (closeLeaf i sym s)).Like f g State.control s (.ok () (closeLeaf i sym (s.relabel f g))) := by
  have hrelabel : closeLeaf i sym (s.relabel f g) = (closeLeaf i sym s).relabel f g :=
    attach_relabel f g i s.work.stk (s.setNode i { s.nodeAt i with sym := sym })
  rw [hrelabel]
  obtain ⟨node, stk, h⟩ := attach_frame i s.work.stk (s.setNode i { s.nodeAt i with sym := sym })
  rw [closeLeaf, h]
  exact .update _ rfl rfl rfl

theorem readLeafRest_part : IsPart State.control readLeafRest := fun f g s =>
  (alloc_part _ f g s).bind fun i t => (srcRead_part 9 f g t).bind fun v u => by
    cases v with
    | none => exact .stop _ u
    | some w => exact closeLeaf_like f g i _ u

theorem readToken_part : IsPart State.control readToken := fun f g s =>
  (srcRead_part 1 f g s).bind fun v t => by
    cases v with
    | none => exact .stop _ t
    | some b => exact .ite (fun _ => readLeafRest_part f g t) fun _ => openNode_part f g t

theorem readTokens_part (bound : Nat) : IsPart State.control (readTokens bound) := fun f g s => by
  induction bound generalizing s with
  | zero => exact .stop _ s
  | succ bound ih =>
    exact (readToken_part f g s).seq fun t => .ite (fun _ => .update _ rfl rfl rfl) fun _ => ih t

theorem takeNode_part : IsPart State.control takeNode := fun f g s =>
  (srcRead_part 1 f g s).bind fun v t => by
    cases v with
    | none => exact .stop _ t
    | some b => exact openNode_part f g t

theorem takeLeaf_part (sym : Sym) : IsPart State.control (takeLeaf sym) := fun f g s =>
  (srcRead_part 1 f g s).bind fun v t => by
    cases v with
    | none => exact .stop _ t
    | some b =>
      exact (alloc_part _ f g t).bind fun i u => (srcRead_part 9 f g u).bind fun w x => by
        cases w with
        | none => exact .stop _ x
        | some _ => exact closeLeaf_like f g i sym x

/-! ## The bodies of the commands -/

theorem analyzeBody_part : IsPart State.cfg analyzeBody := fun f g s =>
  .after (analyzeStart s) rfl (.of_eq rfl rfl) <|
    (((analyzeLoop_part _).cfg f g _).seq (srcReset_part.cfg f g)).seq fun _ => .update _ rfl rfl rfl

theorem buildTree_part : IsPart State.control fun s => if s.pq.length = 1 then degenerate s else mergeAll s := fun f g s =>
  .ite (fun _ => degenerate_part f g s) fun _ => mergeAll_part f g s

theorem buildBody_part : IsPart State.cfg buildBody := fun f g s =>
  .after (buildStart s) rfl (.of_eq rfl rfl) <|
    (((loadLeaves_part 0 _).cfg f g _).seq (buildTree_part.cfg f g)).seq fun _ => .update _ rfl rfl rfl

theorem gencodesBody_part : IsPart State.cfg gencodesBody := fun f g s =>
  .after (gencodesStart s) rfl (.of_eq rfl rfl) <|
    ((walk_part _ _ _ _).cfg f g _).seq fun _ => .update _ rfl rfl rfl

theorem wrmagicBody_part : IsPart State.cfg wrmagicBody := fun f g s =>
  .after { s with phase := .wrmagic } rfl (.of_eq rfl rfl) <| (sinkWrite_part 32 _).cfg f g _

theorem wrhdrBody_part : IsPart State.cfg wrhdrBody := fun f g s =>
  .after (wrhdrStart s) rfl (.of_eq rfl rfl) <| (writeTokens_part _).cfg f g _

theorem encbodyBody_part : IsPart State.cfg encbodyBody := fun f g s =>
  .after { s with phase := .encbody } rfl (.of_eq rfl rfl) <|
    (((encodeLoop_part _).cfg f g _).seq ((emitCode_part 256).cfg f g)).seq fun _ => .update _ rfl rfl rfl

theorem closeBody_part : IsPart State.cfg closeBody := fun f g s =>
  .after { s with phase := .close } rfl (.of_eq rfl rfl) <| sinkClose_part.cfg f g _

theorem rdmagicBody_part : IsPart State.cfg rdmagicBody := fun f g s =>
  .after { s with phase := .rdmagic } rfl (.of_eq rfl rfl) <| readMagic_part.cfg f g _

theorem rdhdrEnd_part : IsPart State.cfg rdhdrEnd := fun _ _ s =>
  .ite (fun _ => .stop _ s) fun _ => .update _ rfl rfl rfl

theorem rdhdrBody_part : IsPart State.cfg rdhdrBody := fun f g s =>
  .after (rdhdrStart s) rfl (.of_eq rfl rfl) <| ((readTokens_part _).cfg f g _).seq (rdhdrEnd_part f g)

theorem decbodyBody_part : IsPart State.cfg decbodyBody := fun f g s =>
  .after { s with phase := .decbody, cursor := s.root } rfl (.of_eq rfl rfl) <|
    ((decodeLoop_part _).cfg f g _).seq fun _ => .update _ rfl rfl rfl

theorem complete_part : IsPart State.cfg fun s => .ok () s.complete := fun _ _ _ => .update _ rfl rfl rfl

theorem compressAfterHeader_part : IsPart State.cfg compressAfterHeader := fun f g s =>
  (encbodyBody_part f g s).seq (closeBody_part f g)

theorem compressAfterMagic_part : IsPart State.cfg compressAfterMagic := fun f g s =>
  (wrhdrBody_part f g s).seq (compressAfterHeader_part f g)

theorem compressBody_part : IsPart State.cfg compressBody := fun f g s =>
  (((analyzeBody_part f g s).seq (buildBody_part f g)).seq (gencodesBody_part f g)).seq fun t =>
    (wrmagicBody_part f g t).seq (compressAfterMagic_part f g)

theorem decompressAfterHeader_part : IsPart State.cfg decompressAfterHeader := fun f g s =>
  (decbodyBody_part f g s).seq (closeBody_part f g)

theorem decompressAfterMagic_part : IsPart State.cfg decompressAfterMagic := fun f g s =>
  (rdhdrBody_part f g s).seq (decompressAfterHeader_part f g)

theorem decompressBody_part : IsPart State.cfg decompressBody := fun f g s =>
  (rdmagicBody_part f g s).seq (decompressAfterMagic_part f g)

end Sys2Proof.Machine
end

section
/-!
PROOF of O17 (CommandsNeitherReadNorWriteTheSelector): the judgement of the bodies, carried to instructions.
-/
namespace Sys2Proof.Machine

/-- `o` keeps the configuration and treats the streams as it may, and `o'` is `o` with the selector changed. -/
structure OutcomeLike (f : BitVec 10 → BitVec 10) (s : State) (o o' : Host.Outcome State Fault Refusal) : Prop where
  relabelled : o' = mapNext (State.relabel f id) o
  kept : ∀ t, o = .next t → t.cfg = s.cfg ∧ s.StreamsKept t

section
variable {f : BitVec 10 → BitVec 10}

theorem OutcomeLike.next {s t : State} (hcfg : t.cfg = s.cfg) (hsrc : t.src.bits = s.src.bits) (hsnk : t.snk = s.snk) :
    OutcomeLike f s (.next t) (.next (t.relabel f id)) where
  relabelled := rfl
  kept _ ht := by cases ht; exact ⟨hcfg, .of_eq hsrc hsnk⟩

theorem OutcomeLike.refused (s : State) (q : Refusal) : OutcomeLike f s (.refused q) (.refused q) where
  relabelled := rfl
  kept _ ht := by cases ht

theorem settle_map (r : Res Unit) : settle (r.map (State.relabel f id)) = mapNext (State.relabel f id) (settle r) := by
  match r with
  | .ok _ _ => rfl
  | .stop (.raise _) _ => rfl
  | .stop .stall _ => rfl
  | .stop (.fault _) _ => rfl
  | .stop (.refuse _) _ => rfl

theorem Res.Like.settle {s : State} {r r' : Res Unit} (h : r.Like f id State.cfg s r') :
    OutcomeLike f s (Machine.settle r) (Machine.settle r') where
  relabelled := by rw [h.relabelled, settle_map]
  kept _ ht := h.kept.settle (fun _ _ ⟨hv, hk⟩ => ⟨hv, hk.trans (.of_eq rfl rfl)⟩) ht

theorem accept_like {pre : State → Bool} {m : BitVec 2} {body : State → Res Unit} {s : State}
    (hpre : pre (s.relabel f id) = pre s) (hbody : IsPart State.cfg body) :
    OutcomeLike f s (accept pre m body s) (accept pre m body (s.relabel f id)) := by
  have hrun : (body (s.start m)).Like f id State.cfg s (body ((s.relabel f id).start m)) :=
    .after (s.start m) rfl (.of_eq rfl rfl) (hbody f id _)
  unfold accept
  rw [hpre]
  change OutcomeLike f s _ (if s.busy then _ else if s.phase = .error then _ else _)
  split
  · exact .next rfl rfl rfl
  split
  · exact .next rfl rfl rfl
  split
  · exact (hrun.seq (complete_part f id)).settle
  · exact .next rfl rfl rfl

theorem acceptIllegal_like (s : State) : OutcomeLike f s (acceptIllegal s) (acceptIllegal (s.relabel f id)) := by
  unfold acceptIllegal
  change OutcomeLike f s _ (if s.busy then _ else if s.phase = .error then _ else _)
  split
  · exact .next rfl rfl rfl
  split
  · exact .next rfl rfl rfl
  · exact .next rfl rfl rfl

theorem endPhase_like (m : BitVec 2) {rest : State → Res Unit} (h : IsPart State.cfg rest) (s : State) :
    (endPhase m rest s).Like f id State.cfg s (endPhase m rest (s.relabel f id)) :=
  .ite (fun _ => (h f id s).seq (complete_part f id)) fun _ => complete_part f id s

theorem afterReadToken_like (s : State) :
    (afterReadToken s).Like f id State.cfg s (afterReadToken (s.relabel f id)) :=
  .ite (fun _ => (rdhdrEnd_part f id s).seq (endPhase_like _ decompressAfterHeader_part)) fun _ => .update _ rfl rfl rfl

theorem afterWriteToken_like (s : State) :
    (afterWriteToken s).Like f id State.cfg s (afterWriteToken (s.relabel f id)) :=
  .ite (fun _ => endPhase_like _ compressAfterHeader_part s) fun _ => .update _ rfl rfl rfl

theorem execHdrNode_like (s : State) : OutcomeLike f s (execHdrNode s) (execHdrNode (s.relabel f id)) := by
  unfold execHdrNode
  rw [State.relabel_phase]
  split
  · exact ((takeNode_part.cfg f id s).seq afterReadToken_like).settle
  · exact ((writeNodeToken_part.cfg f id s).seq afterWriteToken_like).settle
  · exact .refused s _

theorem execHdrLeaf_like (sym : Sym) (s : State) :
    OutcomeLike f s (execHdrLeaf sym s) (execHdrLeaf sym (s.relabel f id)) := by
  unfold execHdrLeaf
  rw [State.relabel_phase]
  split
  · exact (((takeLeaf_part sym).cfg f id s).seq afterReadToken_like).settle
  · exact (((writeLeafToken_part sym).cfg f id s).seq afterWriteToken_like).settle
  · exact .refused s _

theorem execFileMagic_like (s : State) : OutcomeLike f s (execFileMagic s) (execFileMagic (s.relabel f id)) := by
  unfold execFileMagic
  rw [State.relabel_phase]
  split
  · exact ((readMagic_part.cfg f id s).seq (endPhase_like _ decompressAfterMagic_part)).settle
  · exact (((sinkWrite_part 32 _).cfg f id s).seq (endPhase_like _ compressAfterMagic_part)).settle
  · exact .refused s _

/-- Every instruction but CLEAR does the same with another selector, keeps the configuration and treats the streams as it may. -/
theorem exec_like {i : Instr} (hi : i ≠ .clear) (s : State) : OutcomeLike f s (exec i s) (exec i (s.relabel f id)) := by
  cases i with
  | analyze => exact accept_like rfl analyzeBody_part
  | build => exact accept_like rfl buildBody_part
  | gencodes => exact accept_like rfl gencodesBody_part
  | wrmagic => exact accept_like rfl wrmagicBody_part
  | wrhdr => exact accept_like rfl wrhdrBody_part
  | encbody => exact accept_like rfl encbodyBody_part
  | close => exact accept_like rfl closeBody_part
  | rdmagic => exact accept_like rfl rdmagicBody_part
  | rdhdr => exact accept_like rfl rdhdrBody_part
  | decbody => exact accept_like rfl decbodyBody_part
  | compress => exact accept_like rfl compressBody_part
  | decompress => exact accept_like rfl decompressBody_part
  | clear => exact absurd rfl hi
  | illegal0 | illegalE | illegalF | illegalDefault v => exact acceptIllegal_like s
  | hdrNode => exact execHdrNode_like s
  | hdrLeaf sym => exact execHdrLeaf_like sym s
  | fileMagic => exact execFileMagic_like s

end

/-- Settles O17: what an instruction does is relabelled with the selector; relabelled with the selector it has, it is itself, so
that the instruction leaves the selector. -/
theorem commandsNeitherReadNorWriteTheSelector : Obligations.CommandsNeitherReadNorWriteTheSelector := by
  unfold Obligations.CommandsNeitherReadNorWriteTheSelector
  intro i s x hi
  have hlike (y : BitVec 10) : exec i { s with sel := y } = mapNext (fun t => { t with sel := y }) (exec i s) :=
    (exec_like (f := fun _ => y) hi s).relabelled
  refine ⟨hlike x, fun t ht => ?_⟩
  have hself : exec i s = mapNext (fun t => { t with sel := s.sel }) (exec i s) := hlike s.sel
  rw [ht] at hself
  injection hself with hself
  simpa using congrArg State.sel hself

end Sys2Proof.Machine
end

section
/-!
PROOF of O16 (StreamsAreReadAndAppendedOnly): everything a step can do, and what each of it does to the streams.
-/
namespace Sys2Proof.Machine

/-! ## What a step can do -/

theorem isCommand_of_decodeToken {bits more : List Bool} {i : Instr} (h : decodeToken bits = .ok (i, more)) :
    isCommand i = false := by
  unfold decodeToken at h
  split at h
  · cases h
  · cases h; rfl
  · split at h <;> cases h
    rfl

theorem isCommand_of_decodeMagic {magic : BitVec 32} {bits more : List Bool} {i : Instr}
    (h : decodeMagic magic bits = .ok (i, more)) : isCommand i = false := by
  unfold decodeMagic at h
  split at h
  · split at h <;> cases h
    rfl
  · cases h

theorem isCommand_tokenOf (n : Node) : isCommand (tokenOf n) = false := by
  unfold tokenOf
  split <;> rfl

/-- A running command runs its next token, finds no magic or no token on its source, or waits (R69, R71, R124, R148, R201). -/
theorem fetchToken_cases (s : State) :
    (∃ i, isCommand i = false ∧ fetchToken s = .run i s) ∨
    (s.phase = .rdmagic ∧ fetchToken s = .done (settle (readMagic s))) ∨
    (s.phase = .rdhdr ∧ fetchToken s = .done (settle (readToken s))) ∨ fetchToken s = .done (.next s) := by
  unfold fetchToken
  split
  next hp =>
    split
    next hd => exact .inl ⟨_, isCommand_of_decodeMagic hd, rfl⟩
    next => exact .inr (.inl ⟨hp, rfl⟩)
  next hp =>
    split
    next hd => exact .inl ⟨_, isCommand_of_decodeToken hd, rfl⟩
    next => exact .inr (.inr (.inl ⟨hp, rfl⟩))
  · exact .inl ⟨.fileMagic, rfl, rfl⟩
  · split
    · exact .inr (.inr (.inr rfl))
    · exact .inl ⟨_, isCommand_tokenOf _, rfl⟩
  all_goals exact .inr (.inr (.inr rfl))

/-- A step runs the command that the host writes, does another host action, or does what the CORE does by itself
(R60, R62, R73). -/
theorem fetch_cases (s : State) :
    (∃ v rest, s.pending = .write cmdAddr v :: rest ∧ fetch s = .run (decodeCmd v) { s with pending := rest }) ∨
    (∃ a rest, s.pending = a :: rest ∧ (∀ v, a ≠ .write cmdAddr v) ∧
      fetch s = .done (hostAct a { s with pending := rest })) ∨
    (s.pending = [] ∧ fetch s = if s.busy then fetchToken s else .done (.next s)) := by
  unfold fetch
  split
  next addr v rest hp =>
    by_cases ha : addr = cmdAddr
    · subst ha
      exact .inl ⟨v, rest, hp, if_pos rfl⟩
    · exact .inr (.inl ⟨_, rest, hp, fun _ he => ha (HostAction.write.inj he).1, if_neg ha⟩)
  next hp => exact .inr (.inl ⟨_, _, hp, nofun, rfl⟩)
  next hp => exact .inr (.inl ⟨_, _, hp, nofun, rfl⟩)
  next hp => exact .inr (.inl ⟨_, _, hp, nofun, rfl⟩)
  next hp => exact .inr (.inl ⟨_, _, hp, nofun, rfl⟩)
  next hp => exact .inr (.inr ⟨hp, rfl⟩)

/-- What a next state comes from. -/
theorem step_cases {s t : State} (h : step s = .next t) :
    (∃ v rest, s.pending = .write cmdAddr v :: rest ∧ exec (decodeCmd v) { s with pending := rest } = .next t) ∨
    (∃ a rest, s.pending = a :: rest ∧ (∀ v, a ≠ .write cmdAddr v) ∧ hostAct a { s with pending := rest } = .next t) ∨
    (s.pending = [] ∧ t = s) ∨
    (s.pending = [] ∧ s.busy = true ∧
      ((∃ i, isCommand i = false ∧ exec i s = .next t) ∨ (s.phase = .rdmagic ∧ settle (readMagic s) = .next t) ∨
        (s.phase = .rdhdr ∧ settle (readToken s) = .next t))) := by
  unfold step at h
  rcases fetch_cases s with ⟨v, rest, hp, e⟩ | ⟨a, rest, hp, ha, e⟩ | ⟨hp, e⟩ <;> rw [e] at h
  · exact .inl ⟨v, rest, hp, h⟩
  · exact .inr (.inl ⟨a, rest, hp, ha, h⟩)
  · cases hb : s.busy with
    | false =>
      rw [hb] at h
      cases h
      exact .inr (.inr (.inl ⟨hp, rfl⟩))
    | true =>
      rw [if_pos hb] at h
      rcases fetchToken_cases s with ⟨i, hi, e⟩ | ⟨hph, e⟩ | ⟨hph, e⟩ | e <;> rw [e] at h
      · exact .inr (.inr (.inr ⟨hp, rfl, .inl ⟨i, hi, h⟩⟩))
      · exact .inr (.inr (.inr ⟨hp, rfl, .inr (.inl ⟨hph, h⟩)⟩))
      · exact .inr (.inr (.inr ⟨hp, rfl, .inr (.inr ⟨hph, h⟩)⟩))
      · cases h
        exact .inr (.inr (.inl ⟨hp, rfl⟩))

/-- A host action that is no command writes the port's registers, resets the CORE, or replaces a stream between commands
(R60, R156, R190, R193, R198). -/
theorem hostAct_cases {a : HostAction} {s t : State} (h : hostAct a s = .next t) :
    (∃ sel rdata freeCount, t = { s with sel := sel, rdata := rdata, freeCount := freeCount }) ∨
    (a = .reset ∧ t = coreReset (abandon s)) ∨
    (∃ bits pos n, a = .openSource bits pos n ∧ s.busy = false ∧
      t = { s with src := { bits := bits, pos := min pos bits.length, answers := n } }) ∨
    (∃ bits c n, a = .openSink bits c n ∧ s.busy = false ∧
      t = { s with snk := { bits := bits, closed := c, answers := n } }) := by
  cases a with
  | write addr data =>
    simp only [hostAct, writeReg] at h
    split at h <;> cases h <;> exact .inl ⟨_, _, _, rfl⟩
  | read addr =>
    simp only [hostAct, readReg] at h
    split at h <;> cases h <;> exact .inl ⟨_, _, _, rfl⟩
  | reset =>
    cases h
    exact .inr (.inl ⟨rfl, rfl⟩)
  | openSource bits pos n =>
    simp only [hostAct] at h
    split at h <;> cases h
    next hb => exact .inr (.inr (.inl ⟨bits, pos, n, rfl, by simpa using hb, rfl⟩))
  | openSink bits c n =>
    simp only [hostAct] at h
    split at h <;> cases h
    next hb => exact .inr (.inr (.inr ⟨bits, c, n, rfl, by simpa using hb, rfl⟩))

/-- Reset changes nothing of the environment but the streams, and these only while busy (R191, R192). -/
theorem abandon_frame (s : State) :
    ∃ src snk, abandon s = { s with src := src, snk := snk } ∧ (s.busy = false → src = s.src ∧ snk = s.snk) := by
  unfold abandon
  split
  · next hb => exact ⟨_, _, rfl, fun hidle => absurd (hidle.symm.trans hb) nofun⟩
  · exact ⟨s.src, s.snk, rfl, fun _ => ⟨rfl, rfl⟩⟩

/-! ## The streams over a step -/

/-- Reset of a running CORE moves the read position and may append to an open sink (R192, U5). -/
theorem abandon_streams (s : State) : s.StreamsKept (abandon s) := by
  unfold abandon
  split
  · refine ⟨rfl, ?_, fun hc => if_pos hc⟩
    dsimp only
    split
    · exact List.prefix_rfl
    · exact List.prefix_append _ _
  · exact .of_eq rfl rfl

theorem exec_streams (i : Instr) {s t : State} (ht : exec i s = .next t) : t.cfg = s.cfg ∧ s.StreamsKept t := by
  by_cases hi : i = .clear
  · subst hi
    change execClear s = _ at ht
    rcases execClear_cases s with ⟨-, e⟩ | ⟨-, e⟩ <;> rw [e] at ht <;> cases ht <;> exact ⟨rfl, .of_eq rfl rfl⟩
  · exact (exec_like (f := id) hi s).kept t ht

/-- A part of a command as a whole step keeps the configuration and treats the streams as it may. -/
theorem IsPart.settle_streams {c : State → Res Unit} (h : IsPart State.control c) {s t : State}
    (ht : settle (c s) = .next t) : t.cfg = s.cfg ∧ s.StreamsKept t := (h.cfg id id s).settle.kept t ht

/-- A step opens the source or the sink that the host gives it, or treats the streams as a command does. -/
theorem step_streams {s t : State} (h : step s = .next t) :
    (t.cfg = s.cfg ∧ s.StreamsKept t) ∨
    (∃ bits pos n rest, s.pending = .openSource bits pos n :: rest ∧ t.cfg = s.cfg ∧ t.snk = s.snk) ∨
    (∃ bits c n rest, s.pending = .openSink bits c n :: rest ∧ t.cfg = s.cfg ∧ t.src = s.src) := by
  have hpop (rest : List HostAction) : s.StreamsKept { s with pending := rest } := .of_eq rfl rfl
  rcases step_cases h with ⟨v, rest, -, h⟩ | ⟨a, rest, hp, -, h⟩ | ⟨-, rfl⟩ | ⟨-, -, ⟨i, -, h⟩ | ⟨-, h⟩ | ⟨-, h⟩⟩
  · obtain ⟨hcfg, hk⟩ := exec_streams _ h
    exact .inl ⟨hcfg, (hpop rest).trans hk⟩
  · rcases hostAct_cases h with ⟨_, _, _, rfl⟩ | ⟨-, rfl⟩ | ⟨bits, pos, n, rfl, -, rfl⟩ | ⟨bits, c, n, rfl, -, rfl⟩
    · exact .inl ⟨rfl, .of_eq rfl rfl⟩
    · obtain ⟨src, snk, hframe, -⟩ := abandon_frame { s with pending := rest }
      have hcfg : (abandon { s with pending := rest }).cfg = s.cfg := by rw [hframe]
      exact .inl ⟨hcfg, (hpop rest).trans ((abandon_streams _).trans (.of_eq rfl rfl))⟩
    · exact .inr (.inl ⟨bits, pos, n, rest, hp, rfl, rfl⟩)
    · exact .inr (.inr ⟨bits, c, n, rest, hp, rfl, rfl⟩)
  · exact .inl ⟨rfl, .of_eq rfl rfl⟩
  · exact .inl (exec_streams i h)
  · exact .inl (readMagic_part.settle_streams h)
  · exact .inl (readToken_part.settle_streams h)

/-- Settles O16: every part of a command only reads the source and only appends to an open sink, and so does a reset; any other
change of a stream is the host's. -/
theorem streamsAreReadAndAppendedOnly : Obligations.StreamsAreReadAndAppendedOnly := by
  unfold Obligations.StreamsAreReadAndAppendedOnly
  intro s t h
  rcases step_streams h with ⟨hcfg, hk⟩ | ⟨bits, pos, n, rest, hp, hcfg, hsnk⟩ | ⟨bits, c, n, rest, hp, hcfg, hsrc⟩
  · obtain ⟨more, hmore⟩ := hk.appended
    exact ⟨hcfg, fun _ => hk.source, fun _ => ⟨⟨more, hmore.symm⟩, hk.closed⟩⟩
  · exact ⟨hcfg, fun hno => absurd hp (hno _ _ _ _), fun _ => ⟨⟨[], by rw [hsnk, List.append_nil]⟩, fun _ => hsnk⟩⟩
  · exact ⟨hcfg, fun _ => congrArg Source.bits hsrc, fun hno => absurd hp (hno _ _ _ _)⟩

end Sys2Proof.Machine
end

section
/-!
PROOF of O13 (StepKeepsSequencerOk): every step, of any state, keeps the agreement of the sequencer's registers.

Inside a phase the registers do not change (`IsPart.agrees`), so it is enough that each body enters its phases with registers that
agree and leaves them so that its end makes them agree (`State.InCommand`).
-/
namespace Sys2Proof.Machine

/-! ## The agreement of the sequencer's registers inside a command -/

/-- The sequencer's registers inside a command, whatever its phase (R11 to R13, R153): of any state, so nothing is asked of the
configuration, the streams and the tables as in `State.CommandOk`. -/
structure State.InCommand (s : State) : Prop where
  busy : s.busy = true
  done : s.done = false
  noError : s.errCode = none
  codesBuilt : s.codesValid = true → s.treeValid = true ∧ s.treeOrigin = .built

/-- The agreement is one of the control registers only. -/
theorem sequencerOk_of_control {s t : State} (h : t.control = s.control) (hs : s.sequencerOk = true) :
    t.sequencerOk = true := by
  have hview : t.control.sequencerOk = s.control.sequencerOk := by rw [h]
  exact hview.trans hs

theorem State.InCommand.of_control {s t : State} (hs : s.InCommand) (h : t.control = s.control) : t.InCommand :=
  have hview : s.control.InCommand := { hs with }
  have ht : t.control.InCommand := h ▸ hview
  { ht with }

/-- In a running phase the registers of a command agree, in RDHDR's if the tables are hidden. -/
theorem State.InCommand.sequencerOk {s : State} (h : s.InCommand) (hi : s.phase ≠ .idle) (he : s.phase ≠ .error)
    (hr : s.phase = .rdhdr → s.treeValid = false ∧ s.codesValid = false) : s.sequencerOk = true := by
  refine sequencerOk_iff.2 ?_
  simpa [h.busy, h.done, h.noError, hi, he] using ⟨h.codesBuilt, hr⟩

/-- In a running phase a CORE whose registers agree is inside a command. -/
theorem inCommand_of_running {s : State} (h : s.sequencerOk = true) (hi : s.phase ≠ .idle) (he : s.phase ≠ .error) :
    s.InCommand := by
  obtain ⟨hbusy, herr, hbuilt, -, hdone, -⟩ := sequencerOk_iff.1 h
  have hb := hbusy.2 ⟨hi, he⟩
  exact ⟨hb, hdone hb, by simpa [he] using herr, hbuilt⟩

theorem sequencerOk_complete {s : State} (h : s.InCommand) : s.complete.sequencerOk = true :=
  sequencerOk_iff.2 (by simpa [h.noError] using h.codesBuilt)

theorem sequencerOk_raiseErr (k : ErrKind) (s : State) : (raiseErr k s).sequencerOk = true :=
  sequencerOk_iff.2 (by simp)

theorem sequencerOk_coreReset (s : State) : (coreReset s).sequencerOk = true := sequencerOk_iff.2 (by simp)

/-- Where a part of a command goes on `Q` holds, and where it stalls the registers agree; after an error they always do. -/
def Res.Agrees (Q : State → Prop) (r : Res Unit) : Prop :=
  match r with
  | .ok _ s => Q s
  | .stop .stall s => s.sequencerOk = true
  | .stop (.raise _) _ | .stop (.fault _) _ | .stop (.refuse _) _ => True

theorem Res.Agrees.seq {P Q : State → Prop} {r : Res Unit} {c : State → Res Unit} (h : r.Agrees P)
    (hc : ∀ s, P s → (c s).Agrees Q) : (r.seq c).Agrees Q := by
  match r, h with
  | .ok _ s, h => exact hc s h
  | .stop .stall _, h => exact h
  | .stop (.raise _) _, _ => trivial
  | .stop (.fault _) _, _ => trivial
  | .stop (.refuse _) _, _ => trivial

theorem Res.Agrees.mono {P Q : State → Prop} {r : Res Unit} (h : r.Agrees P) (hpq : ∀ s, P s → Q s) : r.Agrees Q := by
  match r, h with
  | .ok _ s, h => exact hpq s h
  | .stop .stall _, h => exact h
  | .stop (.raise _) _, _ => trivial
  | .stop (.fault _) _, _ => trivial
  | .stop (.refuse _) _, _ => trivial

theorem Res.Agrees.settle {r : Res Unit} {t : State} (h : r.Agrees fun s => s.sequencerOk = true)
    (ht : Machine.settle r = .next t) : t.sequencerOk = true := by
  obtain rfl | rfl | ⟨k, s, rfl, rfl⟩ := settle_eq_next ht
  · exact h
  · exact h
  · exact sequencerOk_raiseErr k s

/-- What runs inside one phase keeps the registers, so that they agree where it stalls. -/
theorem IsPart.agrees {c : State → Res Unit} (h : IsPart State.control c) {s : State} (hs : s.sequencerOk = true) :
    (c s).Agrees fun t => t.control = s.control := by
  have hkept := (h id id s).kept
  match c s, hkept with
  | .ok _ _, hkept => exact hkept.1
  | .stop .stall _, hkept => exact sequencerOk_of_control hkept.1 hs
  | .stop (.raise _) _, _ => trivial
  | .stop (.fault _) _, _ => trivial
  | .stop (.refuse _) _, _ => trivial

/-- What runs inside a phase other than RDHDR's stays inside its command. -/
theorem IsPart.runs {c : State → Res Unit} (h : IsPart State.control c) {s : State} (hs : s.InCommand) (hi : s.phase ≠ .idle)
    (he : s.phase ≠ .error) (hr : s.phase ≠ .rdhdr) : (c s).Agrees State.InCommand :=
  (h.agrees (hs.sequencerOk hi he fun hp => absurd hp hr)).mono fun _ ht => hs.of_control ht

/-! ## The bodies keep the agreement -/

theorem analyzeBody_agrees {s : State} (h : s.InCommand) : (analyzeBody s).Agrees State.InCommand := by
  have hstart : (analyzeStart s).InCommand := { h with codesBuilt := nofun }
  exact (((analyzeLoop_part _).seq srcReset_part).runs hstart nofun nofun nofun).seq fun t ht => { ht with }

/-- BUILD ends with a valid built tree. -/
theorem buildBody_agrees {s : State} (h : s.InCommand) :
    (buildBody s).Agrees fun t => t.InCommand ∧ t.treeValid = true ∧ t.treeOrigin = .built := by
  have hstart : (buildStart s).InCommand := { h with codesBuilt := nofun }
  exact (((loadLeaves_part 0 _).seq buildTree_part).runs hstart nofun nofun nofun).seq fun t ht =>
    ⟨{ ht with codesBuilt := fun _ => ⟨rfl, rfl⟩ }, rfl, rfl⟩

/-- GENCODES makes codes valid over the built tree that it requires. -/
theorem gencodesBody_agrees {s : State} (h : s.InCommand) (hv : s.treeValid = true) (ho : s.treeOrigin = .built) :
    (gencodesBody s).Agrees State.InCommand := by
  have hstart : (gencodesStart s).InCommand := { h with codesBuilt := nofun }
  refine ((walk_part _ _ _ _).agrees (hstart.sequencerOk nofun nofun nofun)).seq fun t ht => ?_
  have htree : t.control.treeValid = true ∧ t.control.treeOrigin = .built := by rw [ht]; exact ⟨hv, ho⟩
  exact { hstart.of_control ht with codesBuilt := fun _ => htree }

theorem wrmagicBody_agrees {s : State} (h : s.InCommand) : (wrmagicBody s).Agrees State.InCommand :=
  (sinkWrite_part 32 _).runs { h with } nofun nofun nofun

theorem wrhdrBody_agrees {s : State} (h : s.InCommand) : (wrhdrBody s).Agrees State.InCommand :=
  (writeTokens_part _).runs { h with } nofun nofun nofun

/-- ENCBODY discards the tables at its end. -/
theorem encbodyBody_agrees {s : State} (h : s.InCommand) : (encbodyBody s).Agrees State.InCommand :=
  have hstart : State.InCommand { s with phase := .encbody } := { h with }
  (((encodeLoop_part _).seq (emitCode_part 256)).runs hstart nofun nofun nofun).seq fun _ ht =>
    { ht with codesBuilt := nofun }

theorem closeBody_agrees {s : State} (h : s.InCommand) : (closeBody s).Agrees State.InCommand :=
  sinkClose_part.runs { h with } nofun nofun nofun

theorem rdmagicBody_agrees {s : State} (h : s.InCommand) : (rdmagicBody s).Agrees State.InCommand :=
  readMagic_part.runs { h with } nofun nofun nofun

/-- The tree of a header is valid without codes (R122, R127). -/
theorem rdhdrEnd_agrees {s : State} (h : s.InCommand) (hc : s.codesValid = false) :
    (rdhdrEnd s).Agrees State.InCommand := by
  unfold rdhdrEnd
  split
  · trivial
  · exact { h with codesBuilt := fun hv => absurd (hc.symm.trans hv) nofun }

/-- RDHDR hides the tables while it reads the header. -/
theorem rdhdrBody_agrees {s : State} (h : s.InCommand) : (rdhdrBody s).Agrees State.InCommand := by
  have hstart : (rdhdrStart s).InCommand := { h with codesBuilt := nofun }
  refine ((readTokens_part _).agrees (hstart.sequencerOk nofun nofun fun _ => ⟨rfl, rfl⟩)).seq fun t ht => ?_
  have hcodes : t.control.codesValid = false := by rw [ht]; rfl
  exact rdhdrEnd_agrees (hstart.of_control ht) hcodes

/-- DECBODY discards the tables at its end. -/
theorem decbodyBody_agrees {s : State} (h : s.InCommand) : (decbodyBody s).Agrees State.InCommand :=
  have hstart : State.InCommand { s with phase := .decbody, cursor := s.root } := { h with }
  ((decodeLoop_part _).runs hstart nofun nofun nofun).seq fun _ ht => { ht with codesBuilt := nofun }

theorem compressAfterHeader_agrees {s : State} (h : s.InCommand) : (compressAfterHeader s).Agrees State.InCommand :=
  (encbodyBody_agrees h).seq fun _ => closeBody_agrees

theorem compressAfterMagic_agrees {s : State} (h : s.InCommand) : (compressAfterMagic s).Agrees State.InCommand :=
  (wrhdrBody_agrees h).seq fun _ => compressAfterHeader_agrees

theorem compressBody_agrees {s : State} (h : s.InCommand) : (compressBody s).Agrees State.InCommand :=
  (((analyzeBody_agrees h).seq fun _ => buildBody_agrees).seq fun _ ⟨ht, hv, ho⟩ => gencodesBody_agrees ht hv ho).seq
    fun _ ht => (wrmagicBody_agrees ht).seq fun _ => compressAfterMagic_agrees

theorem decompressAfterHeader_agrees {s : State} (h : s.InCommand) : (decompressAfterHeader s).Agrees State.InCommand :=
  (decbodyBody_agrees h).seq fun _ => closeBody_agrees

theorem decompressAfterMagic_agrees {s : State} (h : s.InCommand) : (decompressAfterMagic s).Agrees State.InCommand :=
  (rdhdrBody_agrees h).seq fun _ => decompressAfterHeader_agrees

theorem decompressBody_agrees {s : State} (h : s.InCommand) : (decompressBody s).Agrees State.InCommand :=
  (rdmagicBody_agrees h).seq fun _ => decompressAfterMagic_agrees

/-! ## Instructions keep the agreement -/

theorem accept_keeps_sequencerOk {pre : State → Bool} {m : BitVec 2} {body : State → Res Unit} {s t : State}
    (h : s.sequencerOk = true)
    (hbody : pre s = true → (s.start m).InCommand → (body (s.start m)).Agrees State.InCommand)
    (ht : accept pre m body s = .next t) : t.sequencerOk = true := by
  rcases accept_cases ht with ⟨-, rfl⟩ | ⟨-, -, -, rfl⟩ | ⟨-, he, hp, hend⟩
  · exact h
  · exact sequencerOk_raiseErr _ s
  · obtain ⟨-, herr, hbuilt, -⟩ := sequencerOk_iff.1 h
    have hagrees := hbody hp ⟨rfl, rfl, by simpa [he] using herr, hbuilt⟩
    rcases hend with ⟨u, hu, rfl⟩ | hu | ⟨k, u, -, rfl⟩
    · rw [hu] at hagrees
      exact sequencerOk_complete hagrees
    · rw [hu] at hagrees
      exact hagrees
    · exact sequencerOk_raiseErr k u

theorem acceptIllegal_keeps_sequencerOk {s t : State} (h : s.sequencerOk = true) (ht : acceptIllegal s = .next t) :
    t.sequencerOk = true := by
  rcases acceptIllegal_cases s with ⟨-, e⟩ | ⟨-, -, e⟩ <;> rw [e] at ht <;> cases ht
  · exact h
  · exact sequencerOk_raiseErr _ s

theorem execClear_keeps_sequencerOk {s t : State} (h : s.sequencerOk = true) (ht : execClear s = .next t) :
    t.sequencerOk = true := by
  rcases execClear_cases s with ⟨-, e⟩ | ⟨-, e⟩ <;> rw [e] at ht <;> cases ht
  · exact h
  · exact sequencerOk_coreReset s

/-- A phase with tokens ends with its command, or with the rest of COMPRESS or DECOMPRESS. -/
theorem endPhase_agrees {m : BitVec 2} {rest : State → Res Unit} {s : State} (h : s.InCommand)
    (hrest : s.InCommand → (rest s).Agrees State.InCommand) :
    (endPhase m rest s).Agrees fun t => t.sequencerOk = true := by
  unfold endPhase
  split
  · exact (hrest h).seq fun _ => sequencerOk_complete
  · exact sequencerOk_complete h

theorem phase_of_control {s t : State} (h : t.control = s.control) : t.phase = s.phase := by
  have hview : t.control.phase = s.control.phase := by rw [h]
  exact hview

/-- A token read in RDHDR, with what follows it. -/
theorem IsPart.readsToken {c : State → Res Unit} (hc : IsPart State.control c) {s : State} (h : s.sequencerOk = true)
    (hp : s.phase = .rdhdr) : ((c s).seq afterReadToken).Agrees fun t => t.sequencerOk = true := by
  refine (hc.agrees h).seq fun t ht => ?_
  have hok := sequencerOk_of_control ht h
  have hpt : t.phase = .rdhdr := (phase_of_control ht).trans hp
  obtain ⟨-, -, -, -, -, hhidden⟩ := sequencerOk_iff.1 hok
  have hin : t.InCommand := inCommand_of_running hok (by simp [hpt]) (by simp [hpt])
  unfold afterReadToken
  split
  · exact (rdhdrEnd_agrees hin (hhidden hpt).2).seq fun _ hu => endPhase_agrees hu decompressAfterHeader_agrees
  · exact hok

/-- A token written in WRHDR, with what follows it. -/
theorem IsPart.writesToken {c : State → Res Unit} (hc : IsPart State.control c) {s : State} (h : s.sequencerOk = true)
    (hp : s.phase = .wrhdr) : ((c s).seq afterWriteToken).Agrees fun t => t.sequencerOk = true := by
  refine (hc.agrees h).seq fun t ht => ?_
  have hok := sequencerOk_of_control ht h
  have hin : s.InCommand := inCommand_of_running h (by simp [hp]) (by simp [hp])
  unfold afterWriteToken
  split
  · exact endPhase_agrees (hin.of_control ht) compressAfterHeader_agrees
  · exact hok

theorem execHdrNode_keeps_sequencerOk {s t : State} (h : s.sequencerOk = true) (ht : execHdrNode s = .next t) :
    t.sequencerOk = true := by
  unfold execHdrNode at ht
  split at ht
  · next hp => exact (takeNode_part.readsToken h hp).settle ht
  · next hp => exact (writeNodeToken_part.writesToken h hp).settle ht
  · cases ht

theorem execHdrLeaf_keeps_sequencerOk (sym : Sym) {s t : State} (h : s.sequencerOk = true)
    (ht : execHdrLeaf sym s = .next t) : t.sequencerOk = true := by
  unfold execHdrLeaf at ht
  split at ht
  · next hp => exact ((takeLeaf_part sym).readsToken h hp).settle ht
  · next hp => exact ((writeLeafToken_part sym).writesToken h hp).settle ht
  · cases ht

theorem execFileMagic_keeps_sequencerOk {s t : State} (h : s.sequencerOk = true) (ht : execFileMagic s = .next t) :
    t.sequencerOk = true := by
  unfold execFileMagic at ht
  split at ht
  · next hp =>
    have hin : s.InCommand := inCommand_of_running h (by simp [hp]) (by simp [hp])
    exact ((readMagic_part.agrees h).seq fun _ hu =>
      endPhase_agrees (hin.of_control hu) decompressAfterMagic_agrees).settle ht
  · next hp =>
    have hin : s.InCommand := inCommand_of_running h (by simp [hp]) (by simp [hp])
    exact (((sinkWrite_part 32 _).agrees h).seq fun _ hu =>
      endPhase_agrees (hin.of_control hu) compressAfterMagic_agrees).settle ht
  · cases ht

/-- Every instruction, in every state, keeps the agreement of the sequencer's registers. -/
theorem exec_keeps_sequencerOk (i : Instr) {s t : State} (h : s.sequencerOk = true) (ht : exec i s = .next t) :
    t.sequencerOk = true := by
  cases i with
  | analyze => exact accept_keeps_sequencerOk h (fun _ => analyzeBody_agrees) ht
  | build => exact accept_keeps_sequencerOk h (fun _ hs => (buildBody_agrees hs).mono fun _ hu => hu.1) ht
  | gencodes =>
    refine accept_keeps_sequencerOk h (fun hpre hs => ?_) ht
    obtain ⟨hv, ho⟩ : s.treeValid = true ∧ s.treeOrigin = .built := by simpa [gencodesReady] using hpre
    exact gencodesBody_agrees hs hv ho
  | wrmagic => exact accept_keeps_sequencerOk h (fun _ => wrmagicBody_agrees) ht
  | wrhdr => exact accept_keeps_sequencerOk h (fun _ => wrhdrBody_agrees) ht
  | encbody => exact accept_keeps_sequencerOk h (fun _ => encbodyBody_agrees) ht
  | close => exact accept_keeps_sequencerOk h (fun _ => closeBody_agrees) ht
  | rdmagic => exact accept_keeps_sequencerOk h (fun _ => rdmagicBody_agrees) ht
  | rdhdr => exact accept_keeps_sequencerOk h (fun _ => rdhdrBody_agrees) ht
  | decbody => exact accept_keeps_sequencerOk h (fun _ => decbodyBody_agrees) ht
  | compress => exact accept_keeps_sequencerOk h (fun _ => compressBody_agrees) ht
  | decompress => exact accept_keeps_sequencerOk h (fun _ => decompressBody_agrees) ht
  | clear => exact execClear_keeps_sequencerOk h ht
  | illegal0 | illegalE | illegalF | illegalDefault v => exact acceptIllegal_keeps_sequencerOk h ht
  | hdrNode => exact execHdrNode_keeps_sequencerOk h ht
  | hdrLeaf sym => exact execHdrLeaf_keeps_sequencerOk sym h ht
  | fileMagic => exact execFileMagic_keeps_sequencerOk h ht

/-! ## The step keeps the agreement -/

/-- A host action resets the CORE or leaves the sequencer's registers alone. -/
theorem hostAct_keeps_sequencerOk {a : HostAction} {s t : State} (h : s.sequencerOk = true) (ht : hostAct a s = .next t) :
    t.sequencerOk = true := by
  rcases hostAct_cases ht with ⟨_, _, _, rfl⟩ | ⟨-, rfl⟩ | ⟨_, _, _, -, -, rfl⟩ | ⟨_, _, _, -, -, rfl⟩
  · exact h
  · exact sequencerOk_coreReset _
  · exact h
  · exact h

/-- A part of a command as a whole step keeps the agreement. -/
theorem IsPart.settle_sequencerOk {c : State → Res Unit} (hc : IsPart State.control c) {s t : State}
    (h : s.sequencerOk = true) (ht : settle (c s) = .next t) : t.sequencerOk = true :=
  ((hc.agrees h).mono fun _ hu => sequencerOk_of_control hu h).settle ht

/-- Settles O13: inside a phase a command keeps the sequencer's registers, and each of its phases sets them so that they agree,
wherever it stalls; error entry, the end of a command and reset make them agree by themselves. -/
theorem stepKeepsSequencerOk : Obligations.StepKeepsSequencerOk := by
  unfold Obligations.StepKeepsSequencerOk
  intro s t h ht
  rcases step_cases ht with ⟨v, rest, -, ht⟩ | ⟨a, rest, -, -, ht⟩ | ⟨-, rfl⟩ | ⟨-, -, ⟨i, -, ht⟩ | ⟨-, ht⟩ | ⟨-, ht⟩⟩
  · exact exec_keeps_sequencerOk (s := { s with pending := rest }) _ h ht
  · exact hostAct_keeps_sequencerOk (s := { s with pending := rest }) h ht
  · exact h
  · exact exec_keeps_sequencerOk i h ht
  · exact readMagic_part.settle_sequencerOk h ht
  · exact readToken_part.settle_sequencerOk h ht

end Sys2Proof.Machine
end

section
/-!
PROOFS of O5, O6, O15 and O18: the next token, reset and CLEAR, the state at reset, the hardwired count.
-/
namespace Sys2Proof.Machine

/-- Symbol 256 has no counter: its count is hardwired (R14). -/
theorem freqAt_eos (s : State) : s.freqAt 256 = 1#32 := by
  rw [State.freqAt, Vector.getElem?_eq_none (Nat.le_refl 256), Option.getD_none]

/-- Settles O18: the list of counts is the 256 counters and the hardwired 1. -/
theorem endOfStreamCountIsHardwired : Obligations.EndOfStreamCountIsHardwired := by
  unfold Obligations.EndOfStreamCountIsHardwired
  intro s
  refine ⟨freqAt_eos s, counts_length s, ?_⟩
  rw [State.counts, List.getElem?_append_right (by simp)]
  simp

theorem coreReset_hasResetValues (s : State) : (coreReset s).hasResetValues :=
  ⟨rfl, rfl, rfl, rfl, rfl, rfl, rfl, rfl, rfl, rfl, rfl, rfl, rfl, freqAt_eos _⟩

theorem step_of_reset {s : State} {rest : List HostAction} (h : s.pending = .reset :: rest) :
    step s = .next (coreReset (abandon { s with pending := rest })) := by
  simp only [step, fetch, h, hostAct]

/-- Settles O6: reset and CLEAR both end in `coreReset`, which gives R24's values; reset touches the streams only while busy. -/
theorem resetAndClearGiveTheResetState : Obligations.ResetAndClearGiveTheResetState := by
  unfold Obligations.ResetAndClearGiveTheResetState
  have hreset : State.reset.hasResetValues :=
    ⟨rfl, rfl, rfl, rfl, rfl, rfl, rfl, rfl, rfl, rfl, rfl, rfl, rfl, freqAt_eos _⟩
  refine ⟨hreset, fun s rest h => ?_, fun s hb => ?_⟩
  · obtain ⟨src, snk, hframe, hidle⟩ := abandon_frame { s with pending := rest }
    have hstep := step_of_reset h
    rw [hframe] at hstep
    exact ⟨_, hstep, coreReset_hasResetValues _, rfl, rfl, rfl, rfl, hidle⟩
  · have hclear : exec .clear s = .next (coreReset s) := by simp [exec, execClear, hb]
    exact ⟨_, hclear, coreReset_hasResetValues s, rfl, rfl, rfl, rfl, rfl, rfl⟩

/-- Settles O15: at reset the CORE is idle, nothing is valid, and the streams are empty. -/
theorem invariantsHoldAtReset : Obligations.InvariantsHoldAtReset := by
  unfold Obligations.InvariantsHoldAtReset
  have hseq : State.reset.sequencerOk = true := by decide
  exact ⟨hseq, runOk_iff.2 ⟨by decide, hseq, rfl, arenaOk_of_invalid rfl, codesOk_of_invalid rfl, wf_reset, rfl⟩⟩

/-- A running CORE with no host action to come runs the token that it fetches (R69, R71). -/
theorem step_of_busy {s : State} (hp : s.pending = []) (hb : s.busy = true) {i : Instr} (h : fetchToken s = .run i s) :
    step s = exec i s := by
  simp only [step, fetch, hp, hb, if_true, h]

/-- Settles O5: in each of the four phases the token fetched is the one that stands next. -/
theorem stepRunsTheNextTokenOrWaits : Obligations.StepRunsTheNextTokenOrWaits := by
  unfold Obligations.StepRunsTheNextTokenOrWaits
  intro s hp
  refine ⟨fun hb => ?_, fun hb hph i more hd => ?_, fun hb hph i more hd => ?_, fun hb hph e stk hs => ?_, fun hb hph => ?_⟩
  · simp [step, fetch, hp, hb]
  · exact step_of_busy hp hb (by simp only [fetchToken, hph, hd])
  · exact step_of_busy hp hb (by simp only [fetchToken, hph, hd])
  · exact step_of_busy hp hb (by simp only [fetchToken, hph, hs])
  · exact step_of_busy hp hb (by simp only [fetchToken, hph])

end Sys2Proof.Machine
end

section
/-!
PROOF of O28 (QueueGivesTheLeastEntry): the order of the queue is that of the 50-bit keys, so that arithmetic decides it.
-/
namespace Sys2Proof.Machine

/-- The 50-bit key of a queue entry, `weight ‖ seq` (R94). -/
def QEntry.key (x : QEntry) : Nat := (x.weight ++ x.seq).toNat

theorem QEntry.key_eq (x : QEntry) : x.key = x.weight.toNat * 1024 + x.seq.toNat := by
  rw [QEntry.key, BitVec.toNat_append, ← Nat.shiftLeft_add_eq_or_of_lt x.seq.isLt, Nat.shiftLeft_eq]

/-- The order of the queue is that of the keys. -/
theorem QEntry.before_iff {x y : QEntry} : x.before y = true ↔ x.key < y.key := by
  have hx := x.seq.isLt
  have hy := y.seq.isLt
  have hw : x.weight = y.weight ↔ x.weight.toNat = y.weight.toNat := BitVec.toNat_inj.symm
  simp only [QEntry.before, Bool.or_eq_true, Bool.and_eq_true, decide_eq_true_eq, QEntry.key_eq, hw]
  omega

/-- Entries with different sequence numbers have different keys. -/
theorem QEntry.key_ne {x y : QEntry} (h : x.seq ≠ y.seq) : x.key ≠ y.key := by
  have hx := x.seq.isLt
  have hy := y.seq.isLt
  have hs : x.seq.toNat ≠ y.seq.toNat := fun e => h (BitVec.eq_of_toNat_eq e)
  rw [QEntry.key_eq, QEntry.key_eq]
  omega

/-- A queue in the order of R94. -/
abbrev QueueOrdered (q : List QEntry) : Prop := q.Pairwise fun x y => x.before y = true

/-- An insertion keeps the order (R18). -/
theorem insertEntry_queueOrdered {e : QEntry} {q : List QEntry} (hq : QueueOrdered q) (hs : ∀ x ∈ q, x.seq ≠ e.seq) :
    QueueOrdered (insertEntry e q) := by
  induction q with
  | nil => exact List.pairwise_singleton _ e
  | cons x xs ih =>
    obtain ⟨hx, hxs⟩ := List.pairwise_cons.1 hq
    unfold insertEntry
    split
    · next hb =>
      refine List.pairwise_cons.2 ⟨fun y hy => ?_, hq⟩
      rcases List.mem_cons.1 hy with rfl | hy
      · exact hb
      · exact QEntry.before_iff.2 ((QEntry.before_iff.1 hb).trans (QEntry.before_iff.1 (hx y hy)))
    · next hb =>
      have hne := QEntry.key_ne (hs x List.mem_cons_self)
      have hxe : x.before e = true := by
        rw [QEntry.before_iff] at hb ⊢
        omega
      refine List.pairwise_cons.2 ⟨fun y hy => ?_, ih hxs fun y hy => hs y (List.mem_cons_of_mem x hy)⟩
      rcases List.mem_cons.1 ((insertEntry_perm e xs).mem_iff.1 hy) with rfl | hy
      · exact hxe
      · exact hx y hy

/-- Settles O28: the order is that of the keys, an insertion puts the entry before the first one with a greater key, and the
first entry of an ordered queue is the least. -/
theorem queueGivesTheLeastEntry : Obligations.QueueGivesTheLeastEntry := by
  unfold Obligations.QueueGivesTheLeastEntry
  refine ⟨fun x y => ⟨?_, fun hs => ?_⟩, fun e q hq hs => ⟨insertEntry_queueOrdered hq hs, insertEntry_perm e q⟩,
    fun s t e hq h => ?_⟩
  · exact Bool.eq_iff_iff.2 (QEntry.before_iff.trans decide_eq_true_iff.symm)
  · have hne := QEntry.key_ne hs
    rw [← Bool.not_eq_true, QEntry.before_iff, QEntry.before_iff]
    omega
  · rcases removeMin_cases s with ⟨-, e'⟩ | ⟨x, rest, hpq, e'⟩ <;> rw [e'] at h <;> cases h
    rw [hpq] at hq ⊢
    exact ⟨.rfl, (List.pairwise_cons.1 hq).1⟩

end Sys2Proof.Machine
end

section
/-!
PROOF SUPPORT. The stream primitives where the collaborators answer, and the whole bytes of a bit string: what a read of bits
that are there gives, what a write appends, what a closed sink refuses (spec/20_memory.md R41 to R45). With them O23
(ReadsGiveBackWhatWasWritten).
-/
namespace Sys2Proof.Machine

/-! ## Reads -/

/-- The state after a read of `n` bits that gave `v`, from a source that never stalls (R42). -/
def State.advance (n : Nat) (v : BitVec 32) (s : State) : State :=
  { s with src := { s.src with pos := s.src.pos + n }
           work := { s.work with w := v, eos := false }
           trace := s.trace ++ [.srcRead n (some v)] }

/-- The state after a read of `n` bits that found the end of a source that never stalls (R42). -/
def State.exhaust (n : Nat) (s : State) : State :=
  { s with src := { s.src with pos := s.src.bits.length }
           work := { s.work with w := Config.free 32 .srcData s.freeCount, eos := true }
           trace := s.trace ++ [.srcRead n none]
           freeCount := s.freeCount + 1 }

/-- A read moves the rest of the source. -/
theorem State.advance_rest {s : State} {n : Nat} {bits more : List Bool} (v : BitVec 32) (hl : bits.length = n)
    (h : s.src.rest = bits ++ more) : (s.advance n v).src.rest = more := by
  change s.src.bits.drop (s.src.pos + n) = more
  rw [← List.drop_drop]
  change s.src.rest.drop n = more
  rw [h, ← hl, List.drop_left]

/-- Bits that are there are read; at least one, because a position beyond the end has none before it. -/
theorem srcRead_of_rest {s : State} {n : Nat} {bits more : List Bool} (hr : s.sourceReady) (hn : 1 ≤ n)
    (hl : bits.length = n) (h : s.src.rest = bits ++ more) :
    srcRead n s = .ok (some (BitVec.ofNat 32 (ofMsbBits 0 bits))) (s.advance n (BitVec.ofNat 32 (ofMsbBits 0 bits))) := by
  have hlen := congrArg List.length h
  simp only [Source.rest, List.length_drop, List.length_append] at hlen
  have hpeek : s.src.peek n = some (ofMsbBits 0 bits) :=
    peek_eq_some.2 ⟨by omega, by rw [h, ← hl, List.take_left]⟩
  simp [srcRead, State.advance, hr, hpeek]

/-- What was written with `n` bits is read back as the low `n` bits (R42, R44). -/
theorem srcRead_of_written {w : Nat} {s : State} {n : Nat} {v : BitVec w} {more : List Bool} (hr : s.sourceReady)
    (hn : 1 ≤ n) (h : s.src.rest = msbBits n v ++ more) :
    srcRead n s = .ok (some (BitVec.ofNat 32 (v.toNat % 2 ^ n))) (s.advance n (BitVec.ofNat 32 (v.toNat % 2 ^ n))) := by
  have hread := srcRead_of_rest hr hn (msbBits_length n v) h
  rwa [ofMsbBits_msbBits] at hread

/-- A field of the stream read at its own width (R42). -/
theorem srcRead_of_field {n : Nat} {s : State} {v : BitVec n} {more : List Bool} (hr : s.sourceReady) (hn : 1 ≤ n)
    (h : s.src.rest = msbBits n v ++ more) :
    srcRead n s = .ok (some (v.setWidth 32)) (s.advance n (v.setWidth 32)) := by
  have hread := srcRead_of_written hr hn h
  rwa [Nat.mod_eq_of_lt v.isLt, BitVec.ofNat_toNat] at hread

/-- One bit read. -/
theorem srcRead_of_bit {s : State} {b : Bool} {more : List Bool} (hr : s.sourceReady) (h : s.src.rest = b :: more) :
    ∃ v : BitVec 32, v.getLsbD 0 = b ∧ srcRead 1 s = .ok (some v) (s.advance 1 v) :=
  ⟨_, by cases b <;> rfl, srcRead_of_rest hr (Nat.le_refl 1) rfl (bits := [b]) h⟩

/-- A read of more bits than there are finds the end of the source. -/
theorem srcRead_of_short {s : State} {n : Nat} (hr : s.sourceReady) (h : s.src.rest.length < n) :
    srcRead n s = .ok none (s.exhaust n) := by
  simp only [Source.rest, List.length_drop] at h
  have hpeek : s.src.peek n = none := peek_eq_none.2 (by omega)
  simp [srcRead, State.exhaust, hr, hpeek]

/-- A rewind of a source that never stalls (R43). -/
theorem srcReset_of_ready {s : State} (hr : s.sourceReady) :
    srcReset s = .ok () { s with src := { s.src with pos := 0 }, trace := s.trace ++ [.srcReset] } := by
  simp [srcReset, hr]

/-! ## Writes -/

/-- The state after a write of the low `n` bits of `v` to a sink that never stalls (R44). -/
def State.append (n : Nat) (v : BitVec 32) (s : State) : State :=
  { s with snk := { s.snk with bits := s.snk.bits ++ msbBits n v }, trace := s.trace ++ [.sinkWrite n v] }

theorem sinkWrite_of_ready {s : State} (n : Nat) (v : BitVec 32) (h : s.sinkReady) :
    sinkWrite n v s = .ok () (s.append n v) := by
  obtain ⟨hc, ha⟩ := h
  simp [sinkWrite, State.append, hc, ha]

theorem sinkWrite_of_closed {s : State} (n : Nat) (v : BitVec 32) (h : s.snk.closed = true) :
    sinkWrite n v s = .stop (.refuse .sinkClosed) s := by simp [sinkWrite, h]

/-! ## Bytes -/

/-- Eight bits at the front are a byte, most significant first (R41, R46). -/
theorem bytesOf_cons (x : BitVec 8) (rest : List Bool) : bytesOf (msbBits 8 x ++ rest) = x :: bytesOf rest := by
  change BitVec.ofNat 8 (ofMsbBits 0 (msbBits 8 x)) :: bytesOf rest = _
  rw [ofMsbBits_msbBits, Nat.mod_eq_of_lt x.isLt, BitVec.ofNat_toNat, BitVec.setWidth_eq]

/-- A bit string is too short for a byte, or a byte and more. -/
theorem bytesOf_cases (bits : List Bool) :
    (bits.length < 8 ∧ bytesOf bits = []) ∨
    (∃ x more, bits = msbBits 8 x ++ more ∧ bytesOf bits = x :: bytesOf more) := by
  by_cases h : bits.length < 8
  · refine .inl ⟨h, ?_⟩
    unfold bytesOf
    split
    · simp at h
      omega
    · rfl
  · have hlen : (bits.take 8).length = 8 := by simp; omega
    have hbits : bits = msbBits 8 (BitVec.ofNat 8 (ofMsbBits 0 (bits.take 8))) ++ bits.drop 8 := by
      have hmsb := msbBits_ofMsbBits (w := 8) (bits.take 8) (by omega)
      rw [hlen] at hmsb
      rw [hmsb, List.take_append_drop]
    exact .inr ⟨_, _, hbits, by conv_lhs => rw [hbits, bytesOf_cons]⟩

theorem bytesOf_length_le (bits : List Bool) : (bytesOf bits).length ≤ bits.length := by
  induction hn : bits.length using Nat.strong_induction_on generalizing bits with
  | _ n ih =>
    rcases bytesOf_cases bits with ⟨-, h⟩ | ⟨x, more, hbits, h⟩
    · simp [h]
    · have hlen : n = 8 + more.length := by rw [← hn, hbits]; simp
      have := ih more.length (by omega) more rfl
      rw [h, List.length_cons]
      omega

/-- The bytes of a file are its bits; a partial byte at the end is none (R41, R46). -/
theorem bytesOf_bitsOfBytes (bytes : List (BitVec 8)) {tail : List Bool} (h : tail.length < 8) :
    bytesOf (bitsOfBytes bytes ++ tail) = bytes := by
  induction bytes with
  | nil =>
    rcases bytesOf_cases tail with ⟨-, e⟩ | ⟨x, more, rfl, -⟩
    · exact e
    · simp at h
  | cons x xs ih =>
    have hbits : bitsOfBytes (x :: xs) ++ tail = msbBits 8 x ++ (bitsOfBytes xs ++ tail) := by
      simp [bitsOfBytes]
    rw [hbits, bytesOf_cons, ih]

/-- Settles O23: what a read gives is the number of the bits at the read position, and eight bits at the front are a byte. -/
theorem readsGiveBackWhatWasWritten : Obligations.ReadsGiveBackWhatWasWritten := by
  unfold Obligations.ReadsGiveBackWhatWasWritten
  refine ⟨fun n v s t u before after hn _ hsnk hwrite hsrc hbits hrest => ?_, fun bytes tail => bytesOf_bitsOfBytes bytes⟩
  rw [sinkWrite_of_ready n v hsnk] at hwrite
  cases hwrite
  obtain rfl : msbBits n v = before := List.append_cancel_left hbits
  exact ⟨_, srcRead_of_written hsrc hn hrest, State.advance_rest _ (msbBits_length n v) hrest, rfl⟩

end Sys2Proof.Machine
end

section
/-!
PROOF SUPPORT. How a command ends, and the commands that only write: WRMAGIC, CLOSE, and WRHDR along the tree that the arena holds.
With them O38 (WrhdrWritesTheHeader).
-/
namespace Sys2Proof.Machine

/-! ## The end of a command -/

/-- An accepted command whose body goes on to its end completes (R153). -/
theorem accept_of_ok {pre : State → Bool} {m : BitVec 2} {body : State → Res Unit} {s u : State} (hi : s.isIdle)
    (hp : pre s = true) (h : body (s.start m) = .ok () u) : accept pre m body s = .next u.complete := by
  rw [accept_of_ready hi hp, h, Res.seq_ok, settle_ok]

/-- An accepted command whose body is refused is refused as a whole. -/
theorem accept_of_refused {pre : State → Bool} {m : BitVec 2} {body : State → Res Unit} {s u : State} {q : Refusal}
    (hi : s.isIdle) (hp : pre s = true) (h : body (s.start m) = .stop (.refuse q) u) :
    accept pre m body s = .refused q := by
  rw [accept_of_ready hi hp, h, Res.seq_stop, settle_refuse]

/-- An idle CORE has the `busy` and the phase that the end of a command sets. -/
theorem State.eq_of_isIdle {s : State} (h : s.isIdle) : { s with busy := false, phase := .idle } = s := by
  obtain ⟨hb, hp⟩ := h
  rw [← hb, ← hp]

/-! ## CLOSE and WRMAGIC -/

/-- The state in which CLOSE has padded and closed an open sink (R45, R149). -/
def State.sealed (s : State) : State :=
  { s with phase := .close
           snk := { s.snk with bits := s.snk.bits ++ padding s.cfg.padBit s.snk.bits.length, closed := true }
           trace := s.trace ++ [.sinkClose] }

theorem closeBody_completes {s : State} (h : s.sinkReady) : closeBody s = .ok () s.sealed := by
  obtain ⟨hc, ha⟩ := h
  simp [closeBody, sinkClose, State.sealed, hc, ha]

theorem closeBody_refused {s : State} (h : s.snk.closed = true) :
    ∃ u, closeBody s = .stop (.refuse .sinkClosed) u := by
  simp [closeBody, sinkClose, h]

/-- The padding is less than a byte of the padding bit and fills the last byte (R45). -/
theorem padding_eq (p : Bool) (len : Nat) : ∃ n, padding p len = List.replicate n p ∧ n < 8 ∧ (len + n) % 8 = 0 :=
  ⟨_, rfl, by omega, by omega⟩

/-- WRMAGIC to an open sink (R147). -/
theorem wrmagicBody_completes {s : State} (h : s.sinkReady) :
    wrmagicBody s = .ok () (State.append 32 s.cfg.magic { s with phase := .wrmagic }) :=
  sinkWrite_of_ready (s := { s with phase := .wrmagic }) 32 s.cfg.magic h

theorem wrmagicBody_refused {s : State} (h : s.snk.closed = true) :
    ∃ u, wrmagicBody s = .stop (.refuse .sinkClosed) u :=
  ⟨_, sinkWrite_of_closed (s := { s with phase := .wrmagic }) 32 s.cfg.magic h⟩

/-! ## WRHDR -/

@[simp] theorem pendingSubtree_idx (i : Idx) : (pendingSubtree i).idx = i := rfl

/-- `s` with bits appended to the sink and another stack: what the tokens of a header change, whatever the transactions. -/
def State.withHeader (bits : List Bool) (stk : List StkEntry) (trace : List Tx) (s : State) : State :=
  { s with snk := { s.snk with bits := s.snk.bits ++ bits }, trace := trace, work := { s.work with stk := stk } }

theorem State.withHeader_withHeader (bits bits' : List Bool) (stk stk' : List StkEntry) (trace trace' : List Tx)
    (s : State) : (s.withHeader bits stk trace).withHeader bits' stk' trace' = s.withHeader (bits ++ bits') stk' trace' := by
  simp [State.withHeader]

/-- The token of a leaf on top of the stack (R115). -/
theorem writeLeafToken_writes {s : State} (h : s.sinkReady) {e : StkEntry} {stk : List StkEntry} (hs : s.work.stk = e :: stk)
    (sym : Sym) : ∃ trace, writeLeafToken sym s = .ok () (s.withHeader (true :: msbBits 9 sym) stk trace) := by
  have hbits : msbBits 9 (sym.setWidth 32) = msbBits 9 sym := msbBits_eq_of_toNat_mod (by simp)
  refine ⟨((s.append 1 1#32).append 9 (sym.setWidth 32)).trace, ?_⟩
  simp only [writeLeafToken, hs]
  rw [sinkWrite_of_ready 1 1#32 h, Res.seq_ok, sinkWrite_of_ready (s := s.append 1 1#32) 9 _ h, Res.seq_ok]
  simp [State.append, State.withHeader, State.setStk, hbits]
  rfl

/-- The token of an internal node on top of the stack (R114, R115). -/
theorem writeNodeToken_writes {s : State} (h : s.sinkReady) {e : StkEntry} {stk : List StkEntry} (hs : s.work.stk = e :: stk) :
    ∃ trace, writeNodeToken s = .ok () (s.withHeader [false]
      (pendingSubtree (s.nodeAt e.idx).left :: pendingSubtree (s.nodeAt e.idx).right :: stk) trace) := by
  refine ⟨(s.append 1 0#32).trace, ?_⟩
  simp only [writeNodeToken, hs]
  rw [sinkWrite_of_ready 1 0#32 h, Res.seq_ok]
  rfl

/-- The tokens of the subtree on top of the stack are its header; the loop then stands before the rest of the stack (R115). -/
theorem writeTokens_subtree {s : State} {i : Idx} {t : Tree} {is : List Idx} (ht : s.Subtree i t is) (bound : Nat)
    {u : State} (hu : u.node = s.node) (h : u.sinkReady) {stk : List StkEntry} (hs : u.work.stk = pendingSubtree i :: stk) :
    ∃ trace, writeTokens (bound + t.size) u = writeTokens bound (u.withHeader t.header stk trace) := by
  induction ht generalizing bound u stk with
  | @leaf i sym hl hsym =>
    have hnode : u.nodeAt i = s.nodeAt i := nodeAt_congr hu i
    obtain ⟨trace, hw⟩ := writeLeafToken_writes h hs sym
    refine ⟨trace, ?_⟩
    simp only [Tree.size, writeTokens, hs, pendingSubtree_idx, writeToken, hnode, hl, hsym, if_true, hw, Res.seq_ok]
    rfl
  | @internal i l r ls rs hl _ _ ihl ihr =>
    have hnode : u.nodeAt i = s.nodeAt i := nodeAt_congr hu i
    obtain ⟨trace₁, hw⟩ := writeNodeToken_writes h hs
    simp only [pendingSubtree_idx, hnode] at hw
    have hleft := ihl (bound + r.size) (u := u.withHeader [false] (pendingSubtree (s.nodeAt i).left ::
      pendingSubtree (s.nodeAt i).right :: stk) trace₁) hu h rfl
    obtain ⟨trace₂, hwl⟩ := hleft
    have hright := ihr bound (u := u.withHeader ([false] ++ l.header) (pendingSubtree (s.nodeAt i).right :: stk) trace₂) hu h rfl
    obtain ⟨trace₃, hwr⟩ := hright
    rw [State.withHeader_withHeader] at hwl hwr
    refine ⟨trace₃, ?_⟩
    have hsize : bound + (Tree.internal l r).size = bound + r.size + l.size + 1 := by simp only [Tree.size]; omega
    rw [hsize, writeTokens, hs]
    simp only [pendingSubtree_idx, writeToken, hnode, hl, Bool.false_eq_true, if_false, hw, Res.seq_ok]
    rw [hwl, hwr]
    simp [Tree.header]

/-- The tree is one of the arena and the root alone (R17). -/
theorem tree_congr (s t : State) (hn : t.node = s.node) (hr : t.root = s.root) : t.tree = s.tree := by
  rw [State.tree, State.tree, hr, treeAt_congr hn]

/-- WRHDR of a tree that its loop can hold (R115). -/
theorem wrhdrBody_completes {s : State} {t : Tree} (h : s.sinkReady) (ht : s.tree = some t) (hsize : t.size ≤ 1023) :
    ∃ trace, wrhdrBody s = .ok () (State.withHeader t.header [] trace { s with phase := .wrhdr }) := by
  obtain ⟨is, hs⟩ := subtree_of_treeAt ht
  obtain ⟨trace, hw⟩ := writeTokens_subtree hs (arenaSize - t.size) (u := wrhdrStart s) rfl h rfl
  refine ⟨trace, ?_⟩
  obtain ⟨n, hn⟩ : ∃ n, arenaSize - t.size = n + 1 := ⟨arenaSize - t.size - 1, by simp only [arenaSize]; omega⟩
  rw [Nat.sub_add_cancel (by simp only [arenaSize]; omega), hn] at hw
  exact hw

theorem wrhdrBody_refused {s : State} (h : s.snk.closed = true) :
    ∃ u, wrhdrBody s = .stop (.refuse .sinkClosed) u := by
  have hw (n : Nat) (v : BitVec 32) := sinkWrite_of_closed (s := wrhdrStart s) n v h
  refine ⟨wrhdrStart s, ?_⟩
  change (writeToken (s.nodeAt s.root) (wrhdrStart s)).seq (writeTokens 1023) = _
  unfold writeToken
  split
  · change ((sinkWrite 1 1#32 (wrhdrStart s)).seq _).seq _ = _
    rw [hw, Res.seq_stop, Res.seq_stop]
  · change ((sinkWrite 1 0#32 (wrhdrStart s)).seq _).seq _ = _
    rw [hw, Res.seq_stop, Res.seq_stop]

/-- A tree of `L` leaves has `2L − 1` nodes and `11L − 1` header bits: ten a leaf and one an internal node (R50, R69). -/
theorem Tree.header_length (t : Tree) : t.size + 1 = 2 * t.leaves.length ∧ t.header.length + 1 = 11 * t.leaves.length := by
  induction t with
  | leaf sym => simp [Tree.size, Tree.leaves, Tree.header]
  | internal l r ihl ihr =>
    simp only [Tree.size, Tree.leaves, Tree.header, List.length_cons, List.length_append]
    omega

/-- Settles O38: WRHDR's loop goes through the tree in pre-order, one token a node; induction on the tree counts its bits. -/
theorem wrhdrWritesTheHeader : Obligations.WrhdrWritesTheHeader := by
  unfold Obligations.WrhdrWritesTheHeader
  refine ⟨fun s tr hi hsnk hv ht hsize => ?_, Tree.header_length⟩
  have htree : (s.start noMacro).tree = some tr := (tree_congr s (s.start noMacro) rfl rfl).trans ht
  obtain ⟨trace, hw⟩ := wrhdrBody_completes (s := s.start noMacro) hsnk htree hsize
  refine ⟨_, accept_of_ok hi hv hw, ?_⟩
  conv_rhs => rw [← State.eq_of_isIdle hi]
  rfl

end Sys2Proof.Machine
end

section
/-!
PROOF SUPPORT. The bodies that move the streams: ENCBODY over the words of the source and DECBODY along the tree that the arena
holds (spec/45_body_encoder.md, spec/46_body_decoder.md). `State.Moved` says what such a move changes.
-/
namespace Sys2Proof.Machine

/-- From `s` to `t` the source went to `pos` and the sink took `bits`; the counters, the cursor, the registers of a read and the
model's own records may differ, nothing else. -/
def State.Moved (s : State) (pos : Nat) (bits : List Bool) (t : State) : Prop :=
  ∃ freq cursor w eos trace freeCount,
    t = { s with freq := freq, cursor := cursor, src := { s.src with pos := pos }
                 snk := { s.snk with bits := s.snk.bits ++ bits }, work := { s.work with w := w, eos := eos }
                 trace := trace, freeCount := freeCount }

theorem State.Moved.trans {s t u : State} {pos pos' : Nat} {bits bits' : List Bool} (h : s.Moved pos bits t)
    (h' : t.Moved pos' bits' u) : s.Moved pos' (bits ++ bits') u := by
  obtain ⟨_, _, _, _, _, _, rfl⟩ := h
  obtain ⟨_, _, _, _, _, _, rfl⟩ := h'
  exact ⟨_, _, _, _, _, _, by rw [List.append_assoc]⟩

section
variable {s t : State} {pos : Nat} {bits : List Bool} (h : s.Moved pos bits t)
include h

theorem State.Moved.src : t.src = { s.src with pos := pos } := by obtain ⟨_, _, _, _, _, _, rfl⟩ := h; rfl
theorem State.Moved.snk : t.snk = { s.snk with bits := s.snk.bits ++ bits } := by obtain ⟨_, _, _, _, _, _, rfl⟩ := h; rfl
theorem State.Moved.cfg : t.cfg = s.cfg := by obtain ⟨_, _, _, _, _, _, rfl⟩ := h; rfl
theorem State.Moved.node : t.node = s.node := by obtain ⟨_, _, _, _, _, _, rfl⟩ := h; rfl
theorem State.Moved.root : t.root = s.root := by obtain ⟨_, _, _, _, _, _, rfl⟩ := h; rfl
theorem State.Moved.tree : t.tree = s.tree := tree_congr s t h.node h.root
theorem State.Moved.freqValid : t.freqValid = s.freqValid := by obtain ⟨_, _, _, _, _, _, rfl⟩ := h; rfl
theorem State.Moved.errCode : t.errCode = s.errCode := by obtain ⟨_, _, _, _, _, _, rfl⟩ := h; rfl
theorem State.Moved.cursorless (c : Idx) : s.Moved pos bits { t with cursor := c } := by
  obtain ⟨_, _, _, _, _, _, rfl⟩ := h
  exact ⟨_, _, _, _, _, _, rfl⟩
theorem State.Moved.codeLenAt (x : Nat) : t.codeLenAt x = s.codeLenAt x := by obtain ⟨_, _, _, _, _, _, rfl⟩ := h; rfl
theorem State.Moved.codeOf (x : Nat) : t.codeOf x = s.codeOf x := by obtain ⟨_, _, _, _, _, _, rfl⟩ := h; rfl
theorem State.Moved.sourceReady (hr : s.sourceReady) : t.sourceReady := by rw [State.sourceReady, h.src]; exact hr
theorem State.Moved.sinkReady (hk : s.sinkReady) : t.sinkReady := by rw [State.sinkReady, h.snk]; exact hk

end

/-- Nothing goes to the sink. -/
theorem State.moved_of_read (s : State) (pos : Nat) (freq : Vector Count 256) (cursor : Idx) (w : BitVec 32) (eos : Bool)
    (trace : List Tx) (freeCount : Nat) :
    s.Moved pos [] { s with freq := freq, cursor := cursor, src := { s.src with pos := pos }
                            work := { s.work with w := w, eos := eos }, trace := trace, freeCount := freeCount } :=
  ⟨freq, cursor, w, eos, trace, freeCount, by rw [List.append_nil]⟩

theorem State.moved_advance (s : State) (n : Nat) (v : BitVec 32) : s.Moved (s.src.pos + n) [] (s.advance n v) :=
  s.moved_of_read _ _ _ _ _ _ _

theorem State.moved_exhaust (s : State) (n : Nat) : s.Moved s.src.bits.length [] (s.exhaust n) :=
  s.moved_of_read _ _ _ _ _ _ _

theorem State.moved_append (s : State) (n : Nat) (v : BitVec 32) : s.Moved s.src.pos (msbBits n v) (s.append n v) :=
  ⟨_, _, _, _, _, _, rfl⟩

/-! ## Words -/

/-- A source with a word to read gives it (R42, R83). -/
theorem srcRead_of_words_cons {s : State} {x : BitVec 8} {xs : List (BitVec 8)} (hr : s.sourceReady) (h : s.words = x :: xs) :
    srcRead 8 s = .ok (some (x.setWidth 32)) (s.advance 8 (x.setWidth 32)) ∧ (s.advance 8 (x.setWidth 32)).words = xs := by
  rcases bytesOf_cases s.src.rest with ⟨-, e⟩ | ⟨y, more, hrest, e⟩
  · cases e.symm.trans h
  · obtain ⟨rfl, hxs⟩ := List.cons.inj (e.symm.trans h)
    exact ⟨srcRead_of_field hr (by decide) hrest, by
      rw [State.words, State.advance_rest _ (msbBits_length 8 y) hrest, hxs]⟩

/-- A source without a word left is at its end for a read of eight bits (R42, R83). -/
theorem srcRead_of_words_nil {s : State} (hr : s.sourceReady) (h : s.words = []) : srcRead 8 s = .ok none (s.exhaust 8) := by
  rcases bytesOf_cases s.src.rest with ⟨hlen, -⟩ | ⟨y, more, -, e⟩
  · exact srcRead_of_short hr hlen
  · cases e.symm.trans h

/-- The bound of a loop over the words is never reached. -/
theorem words_length_lt (s : State) : s.words.length < s.src.bits.length + 1 := by
  have h := bytesOf_length_le s.src.rest
  have hrest : s.src.rest.length ≤ s.src.bits.length := by simp [Source.rest]
  rw [State.words]
  omega

theorem setWidth_setWidth_byte (x : BitVec 8) : (x.setWidth 32).setWidth 8 = x := by
  rw [BitVec.setWidth_setWidth_of_le _ (by decide), BitVec.setWidth_eq]

/-! ## ENCBODY -/

/-- The bits of a code, one a transaction (R131). -/
theorem emitBits_writes (bits : List Bool) {s : State} (h : s.sinkReady) :
    ∃ u, emitBits bits s = .ok () u ∧ s.Moved s.src.pos bits u := by
  induction bits generalizing s with
  | nil => exact ⟨s, rfl, s.moved_of_read _ _ _ _ _ _ _⟩
  | cons b bs ih =>
    obtain ⟨u, hu, hm⟩ := ih (s := s.append 1 ((BitVec.ofBool b).setWidth 32)) h
    have hbit : msbBits 1 ((BitVec.ofBool b).setWidth 32) = [b] := by cases b <;> rfl
    have hmove := (s.moved_append 1 ((BitVec.ofBool b).setWidth 32)).trans hm
    rw [hbit] at hmove
    refine ⟨u, ?_, hmove⟩
    rw [emitBits, sinkWrite_of_ready _ _ h, Res.seq_ok, hu]

theorem codeOf_length (s : State) (x : Nat) : (s.codeOf x).length = (s.codeLenAt x).toNat := msbBits_length _ _

theorem codeLenAt_eq_zero_iff (s : State) (x : Nat) : s.codeLenAt x = 0#9 ↔ s.codeOf x = [] := by
  rw [← List.length_eq_zero_iff, codeOf_length]
  exact BitVec.toNat_inj.symm

/-- A code that is not empty is refused at its first bit. -/
theorem emitCode_refused {s : State} (h : s.snk.closed = true) {x : Nat} (hx : s.codeLenAt x ≠ 0#9) :
    emitCode x s = .stop (.refuse .sinkClosed) s := by
  rw [ne_eq, codeLenAt_eq_zero_iff] at hx
  obtain ⟨b, bs, hbs⟩ := List.exists_cons_of_ne_nil hx
  rw [emitCode, hbs, emitBits, sinkWrite_of_closed _ _ h, Res.seq_stop]

/-- The loop's pass over one word that has a code (R133). -/
theorem encodeLoop_word {s : State} {x : BitVec 8} {xs : List (BitVec 8)} (hr : s.sourceReady) (hw : s.words = x :: xs)
    (hx : s.codeLenAt x.toNat ≠ 0#9) (bound : Nat) :
    encodeLoop (bound + 1) s = (emitCode x.toNat (s.advance 8 (x.setWidth 32))).seq (encodeLoop bound) := by
  have hword : encodeWord x (s.advance 8 (x.setWidth 32)) = emitCode x.toNat (s.advance 8 (x.setWidth 32)) := if_neg hx
  rw [encodeLoop, (srcRead_of_words_cons hr hw).1, Res.bind_ok]
  dsimp only
  rw [setWidth_setWidth_byte, hword]

/-- The codes of the words in input order, then the end of the source (R133). -/
theorem encodeLoop_writes {words : List (BitVec 8)} {s : State} (hr : s.sourceReady) (hk : s.sinkReady)
    (hw : s.words = words) (hcodes : ∀ x ∈ words, s.codeLenAt x.toNat ≠ 0#9) {bound : Nat} (hb : words.length < bound) :
    ∃ u, encodeLoop bound s = .ok () u ∧ s.Moved s.src.bits.length (words.flatMap fun x => s.codeOf x.toNat) u := by
  obtain ⟨bound, rfl⟩ := Nat.exists_eq_add_one_of_ne_zero (Nat.ne_of_gt (Nat.zero_lt_of_lt hb))
  induction words generalizing s bound with
  | nil => exact ⟨_, by rw [encodeLoop, srcRead_of_words_nil hr hw]; rfl, s.moved_exhaust 8⟩
  | cons x xs ih =>
    obtain ⟨t, ht, hm⟩ := emitBits_writes (s.codeOf x.toNat) (s := s.advance 8 (x.setWidth 32)) hk
    have hst := (s.moved_advance 8 (x.setWidth 32)).trans hm
    have hxs : t.words = xs := by
      rw [State.words, hm.src]
      exact (srcRead_of_words_cons hr hw).2
    obtain ⟨bound, rfl⟩ := Nat.exists_eq_add_one_of_ne_zero (n := bound) (by simp at hb; omega)
    obtain ⟨u, hu, hmu⟩ := ih (hst.sourceReady hr) (hst.sinkReady hk) hxs
      (fun y hy => hst.codeLenAt _ ▸ hcodes y (List.mem_cons_of_mem x hy)) bound (by simpa using hb)
    simp only [hst.codeOf, hst.src] at hmu
    refine ⟨u, ?_, hst.trans hmu⟩
    rw [encodeLoop_word hr hw (hcodes x List.mem_cons_self), emitCode]
    exact (congrArg (Res.seq · _) ht).trans hu

/-- ENCBODY where every word has a code (R131 to R133). -/
theorem encbodyBody_completes {s : State} (hr : s.sourceReady) (hk : s.sinkReady)
    (hcodes : ∀ x ∈ s.words, s.codeLenAt x.toNat ≠ 0#9) :
    ∃ u, encbodyBody s = .ok () { u with codesValid := false, treeValid := false } ∧
      State.Moved { s with phase := .encbody } s.src.bits.length
        (s.words.flatMap (fun x => s.codeOf x.toNat) ++ s.codeOf 256) u := by
  obtain ⟨t, ht, hm⟩ := encodeLoop_writes (s := { s with phase := .encbody }) hr hk rfl hcodes (words_length_lt s)
  obtain ⟨u, hu, hmu⟩ := emitBits_writes (t.codeOf 256) (hm.sinkReady hk)
  rw [hm.codeOf, hm.src] at hmu
  refine ⟨u, ?_, hm.trans hmu⟩
  rw [encbodyBody, ht, Res.seq_ok, emitCode, hu, Res.seq_ok]

/-- On a closed sink the loop and the terminator are refused at the first code, the terminator's if there is no word. -/
theorem encodeLoop_refused {s : State} (hr : s.sourceReady) (hk : s.snk.closed = true)
    (hcodes : ∀ x ∈ s.words, s.codeLenAt x.toNat ≠ 0#9) (heos : s.codeLenAt 256 ≠ 0#9) (bound : Nat) :
    ∃ u, (encodeLoop (bound + 1) s).seq (emitCode 256) = .stop (.refuse .sinkClosed) u := by
  cases hw : s.words with
  | nil =>
    have hemit := emitCode_refused (s := s.exhaust 8) hk heos
    exact ⟨_, by rw [encodeLoop, srcRead_of_words_nil hr hw, Res.bind_ok, Res.seq_ok, hemit]⟩
  | cons x xs =>
    have hx : s.codeLenAt x.toNat ≠ 0#9 := hcodes x (by rw [hw]; exact List.mem_cons_self)
    have hemit := emitCode_refused (s := s.advance 8 (x.setWidth 32)) hk hx
    exact ⟨_, by rw [encodeLoop_word hr hw hx, hemit, Res.seq_stop, Res.seq_stop]⟩

theorem encbodyBody_refused {s : State} (hr : s.sourceReady) (hk : s.snk.closed = true)
    (hcodes : ∀ x ∈ s.words, s.codeLenAt x.toNat ≠ 0#9) (heos : s.codeLenAt 256 ≠ 0#9) :
    ∃ u, encbodyBody s = .stop (.refuse .sinkClosed) u := by
  obtain ⟨u, hu⟩ := encodeLoop_refused (s := { s with phase := .encbody }) hr hk hcodes heos s.src.bits.length
  exact ⟨u, by rw [encbodyBody, hu, Res.seq_stop]⟩

/-! ## DECBODY -/

theorem Tree.follow_internal (l r : Tree) (b : Bool) (bits : List Bool) :
    (Tree.internal l r).follow (b :: bits) = (if b then r else l).follow bits := by cases b <;> rfl

/-- The child that a body bit leads to. -/
theorem State.Subtree.child {s : State} {i : Idx} {l r : Tree} {is : List Idx} (h : s.Subtree i (.internal l r) is) (b : Bool) :
    ∃ js, s.Subtree (if b then (s.nodeAt i).right else (s.nodeAt i).left) (if b then r else l) js := by
  cases h with
  | internal _ hl hr =>
    cases b with
    | false => exact ⟨_, hl⟩
    | true => exact ⟨_, hr⟩

/-- What a subtree says of its top entry. -/
theorem State.Subtree.top {s : State} {i : Idx} {t : Tree} {is : List Idx} (h : s.Subtree i t is) :
    (s.nodeAt i).leaf = !t.isInternal ∧ ∀ sym, t = .leaf sym → (s.nodeAt i).sym = sym := by
  cases h with
  | leaf hl hs => exact ⟨hl, fun _ e => by rw [hs, Tree.leaf.inj e]⟩
  | internal hl _ _ => exact ⟨hl, nofun⟩

/-- One pass of the loop (R140): a bit is read, the cursor moves, and a leaf ends the symbol. -/
theorem decodeLoop_bit {s : State} {b : Bool} {bits : List Bool} (hr : s.sourceReady) (h : s.src.rest = b :: bits) :
    ∃ w, s.Moved (s.src.pos + 1) [] w ∧ w.src.rest = bits ∧
      w.cursor = (if b then (s.nodeAt s.cursor).right else (s.nodeAt s.cursor).left) ∧
      ∀ bound, decodeLoop (bound + 1) s =
        if (w.nodeAt w.cursor).leaf then
          if (w.nodeAt w.cursor).sym = eosSym then .ok () w else (writeDecoded w).seq (decodeLoop bound)
        else decodeLoop bound w := by
  obtain ⟨v, rfl, hread⟩ := srcRead_of_bit hr h
  refine ⟨moveCursor (v.getLsbD 0) (s.advance 1 v), (s.moved_advance 1 v).cursorless _,
    State.advance_rest (bits := [_]) v rfl h, rfl, fun bound => ?_⟩
  rw [decodeLoop, hread, Res.bind_ok]

/-- The loop follows the bits of one symbol from the top of a tree to its leaf (R140). -/
theorem decodeLoop_follow {t : Tree} {sym : Sym} {bits more : List Bool} {s : State} {is : List Idx}
    (ht : s.Subtree s.cursor t is) (hint : t.isInternal = true) (hr : s.sourceReady) (hbits : s.src.rest = bits)
    (hf : t.follow bits = some (sym, more)) {bound : Nat} (hb : bits.length < bound) :
    ∃ u pos bound', s.Moved pos [] u ∧ u.src.rest = more ∧ (u.nodeAt u.cursor).sym = sym ∧ more.length < bound' ∧
      decodeLoop bound s = if sym = eosSym then .ok () u else (writeDecoded u).seq (decodeLoop bound') := by
  obtain ⟨bound, rfl⟩ := Nat.exists_eq_add_one_of_ne_zero (Nat.ne_of_gt (Nat.zero_lt_of_lt hb))
  induction bits generalizing t s is bound with
  | nil =>
    cases t with
    | leaf => cases hint
    | internal => cases hf
  | cons b bits ih =>
    cases t with
    | leaf => cases hint
    | internal l r =>
      obtain ⟨w, hm, hrest, hc, hpass⟩ := decodeLoop_bit hr hbits
      obtain ⟨js, hchild⟩ := ht.child b
      rw [← hc] at hchild
      replace hchild := hchild.frame fun j _ => nodeAt_congr hm.node j
      obtain ⟨htop, hsym⟩ := hchild.top
      rw [Tree.follow_internal] at hf
      rw [hpass]
      rw [List.length_cons] at hb
      generalize (if b then r else l) = c at *
      cases c with
      | leaf x =>
        cases hf
        rw [htop, hsym _ rfl]
        exact ⟨w, _, bound, hm, hrest, hsym _ rfl, by omega, rfl⟩
      | internal cl cr =>
        obtain ⟨bound, rfl⟩ := Nat.exists_eq_add_one_of_ne_zero (n := bound) (by omega)
        obtain ⟨u, pos, bound', hmu, hmore, hu, hb', hloop⟩ := ih hchild rfl (hm.sourceReady hr) hrest hf bound (by omega)
        refine ⟨u, pos, bound', hm.trans hmu, hmore, hu, hb', ?_⟩
        rw [htop]
        exact hloop

/-- A decoded symbol is written as its low eight bits (R142), and the cursor returns to the root. -/
theorem writeDecoded_writes {s : State} {sym : Sym} (h : s.sinkReady) (hs : (s.nodeAt s.cursor).sym = sym) :
    ∃ u, writeDecoded s = .ok () u ∧ s.Moved s.src.pos (msbBits 8 (sym.setWidth 8)) u ∧ u.cursor = u.root := by
  have hbits : msbBits 8 (sym.setWidth 32) = msbBits 8 (sym.setWidth 8) := msbBits_eq_of_toNat_mod (by simp)
  have hmove := (s.moved_append 8 (sym.setWidth 32)).cursorless s.root
  rw [hbits] at hmove
  refine ⟨_, ?_, hmove, rfl⟩
  rw [writeDecoded, hs, sinkWrite_of_ready _ _ h]
  rfl

/-- The loop writes what the body decodes to and stands behind the terminator (R139, R140, R142). -/
theorem decodeLoop_decodes {t : Tree} {bits more : List Bool} {out : List (BitVec 8)} (hd : t.Decodes bits out more)
    (hint : t.isInternal = true) {s : State} {is : List Idx} (ht : s.Subtree s.root t is) (hc : s.cursor = s.root)
    (hr : s.sourceReady) (hk : s.sinkReady) (hbits : s.src.rest = bits) {bound : Nat} (hb : bits.length < bound) :
    ∃ u pos, decodeLoop bound s = .ok () u ∧ s.Moved pos (bitsOfBytes out) u ∧ u.src.rest = more := by
  induction hd generalizing s is bound with
  | stop hf =>
    obtain ⟨u, pos, _, hm, hmore, -, -, hloop⟩ := decodeLoop_follow (hc ▸ ht) hint hr hbits hf hb
    exact ⟨u, pos, hloop, hm, hmore⟩
  | @word bits bits' more out sym hf hne _ ih =>
    obtain ⟨u, pos, bound', hm, hmore, hsym, hb', hloop⟩ := decodeLoop_follow (hc ▸ ht) hint hr hbits hf hb
    obtain ⟨v, hv, hmv, hcv⟩ := writeDecoded_writes (hm.sinkReady hk) hsym
    have hst := hm.trans hmv
    have htv : v.Subtree v.root t is := by
      rw [hst.root]
      exact ht.frame fun j _ => nodeAt_congr hst.node j
    obtain ⟨x, pos', hx, hmx, hrest⟩ := ih htv hcv (hst.sourceReady hr) (hst.sinkReady hk) (by rw [hmv.src]; exact hmore) hb'
    refine ⟨x, pos', ?_, hst.trans hmx, hrest⟩
    rw [hloop, if_neg hne, hv, Res.seq_ok, hx]

theorem rest_length_lt (s : State) : s.src.rest.length < s.src.bits.length + 1 := by
  simp only [Source.rest, List.length_drop]
  omega

/-- The start of DECBODY stands at the root of the tree. -/
theorem decbodyStart_subtree {s : State} {t : Tree} (ht : s.tree = some t) :
    ∃ is, State.Subtree { s with phase := .decbody, cursor := s.root } s.root t is := by
  obtain ⟨is, hs⟩ := subtree_of_treeAt ht
  exact ⟨is, hs.frame fun _ _ => rfl⟩

/-- DECBODY of a body that ends (R139 to R144). -/
theorem decbodyBody_completes {s : State} {t : Tree} {out : List (BitVec 8)} {more : List Bool} (hr : s.sourceReady)
    (hk : s.sinkReady) (ht : s.tree = some t) (hint : t.isInternal = true) (hd : t.Decodes s.src.rest out more) :
    ∃ u pos, decbodyBody s = .ok () { u with treeValid := false, codesValid := false } ∧
      State.Moved { s with phase := .decbody } pos (bitsOfBytes out) u ∧ u.src.rest = more := by
  obtain ⟨is, hs⟩ := decbodyStart_subtree ht
  obtain ⟨u, pos, hu, hm, hrest⟩ := decodeLoop_decodes hd hint hs rfl hr hk rfl (rest_length_lt s)
  obtain ⟨_, _, _, _, _, _, hframe⟩ := hm
  exact ⟨u, pos, by rw [decbodyBody, hu, Res.seq_ok], ⟨_, _, _, _, _, _, hframe⟩, hrest⟩

/-- On a closed sink DECBODY is refused at its first byte; a body without one, which writes nothing, completes. -/
theorem decbodyBody_of_closed {s : State} {t : Tree} {out : List (BitVec 8)} {more : List Bool} (hr : s.sourceReady)
    (hk : s.snk.closed = true) (ht : s.tree = some t) (hint : t.isInternal = true) (hd : t.Decodes s.src.rest out more) :
    (∃ u, decbodyBody s = .stop (.refuse .sinkClosed) u) ∨
    (out = [] ∧ ∃ u, decbodyBody s = .ok () u ∧ u.snk.closed = true) := by
  obtain ⟨is, hs⟩ := decbodyStart_subtree ht
  cases hd with
  | stop hf =>
    obtain ⟨u, _, _, hm, -, -, -, hloop⟩ := decodeLoop_follow hs hint hr rfl hf (rest_length_lt s)
    refine .inr ⟨rfl, _, by rw [decbodyBody, hloop, if_pos rfl, Res.seq_ok], ?_⟩
    rw [hm.snk]
    exact hk
  | word hf hne _ =>
    obtain ⟨u, _, _, hm, -, -, -, hloop⟩ := decodeLoop_follow hs hint hr rfl hf (rest_length_lt s)
    have hclosed : u.snk.closed = true := by
      rw [hm.snk]
      exact hk
    exact .inl ⟨_, by rw [decbodyBody, hloop, if_neg hne, writeDecoded, sinkWrite_of_closed _ _ hclosed, Res.seq_stop,
      Res.seq_stop, Res.seq_stop]⟩

end Sys2Proof.Machine
end

section
/-!
PROOF of O58 (DecompressReadsAFile). RDHDR on the header of a tree: each token opens a node or completes subtrees, so that by the
end of the header the entries that it took hold the tree (`State.ReadTree`, `readTokens_tree`); then DECOMPRESS from its parts.
-/
namespace Sys2Proof.Machine

/-! ## RDMAGIC -/

theorem rdmagicBody_completes {s : State} {more : List Bool} (hr : s.sourceReady)
    (h : s.src.rest = msbBits 32 s.cfg.magic ++ more) :
    rdmagicBody s = .ok () (State.advance 32 s.cfg.magic { s with phase := .rdmagic }) := by
  have hread := srcRead_of_field (s := { s with phase := .rdmagic }) hr (by decide) h
  rw [BitVec.setWidth_eq] at hread
  rw [rdmagicBody, readMagic, hread, Res.bind_ok]
  exact if_pos rfl

/-! ## RDHDR along a tree -/

/-- From `s` to `u` the source went to `pos`; the arena, the stack, the registers of a read and the model's own records may differ,
nothing else. -/
def State.HeaderMoved (s : State) (pos : Nat) (u : State) : Prop :=
  ∃ node nodeCount w eos stk trace freeCount,
    u = { s with node := node, nodeCount := nodeCount, src := { s.src with pos := pos }
                 work := { s.work with w := w, eos := eos, stk := stk }, trace := trace, freeCount := freeCount }

theorem State.HeaderMoved.refl (s : State) : s.HeaderMoved s.src.pos s := ⟨_, _, _, _, _, _, _, rfl⟩

section
variable {s t u : State} {pos pos' : Nat} (h : s.HeaderMoved pos t)
include h

theorem State.HeaderMoved.trans (h' : t.HeaderMoved pos' u) : s.HeaderMoved pos' u := by
  obtain ⟨_, _, _, _, _, _, _, rfl⟩ := h
  obtain ⟨_, _, _, _, _, _, _, rfl⟩ := h'
  exact ⟨_, _, _, _, _, _, _, rfl⟩

theorem State.HeaderMoved.src : t.src = { s.src with pos := pos } := by
  obtain ⟨_, _, _, _, _, _, _, rfl⟩ := h
  rfl

theorem State.HeaderMoved.cfg : t.cfg = s.cfg := by
  obtain ⟨_, _, _, _, _, _, _, rfl⟩ := h
  rfl

theorem State.HeaderMoved.setNode (i : Idx) (n : Node) : s.HeaderMoved pos (t.setNode i n) := by
  obtain ⟨_, _, _, _, _, _, _, rfl⟩ := h
  exact ⟨_, _, _, _, _, _, _, rfl⟩

theorem State.HeaderMoved.grow (n : Node) : s.HeaderMoved pos (t.grow n) := by
  obtain ⟨_, _, _, _, _, _, _, rfl⟩ := h
  exact ⟨_, _, _, _, _, _, _, rfl⟩

theorem State.HeaderMoved.setStk (stk : List StkEntry) : s.HeaderMoved pos (t.setStk stk) := by
  obtain ⟨_, _, _, _, _, _, _, rfl⟩ := h
  exact ⟨_, _, _, _, _, _, _, rfl⟩

theorem State.HeaderMoved.advance (n : Nat) (v : BitVec 32) : s.HeaderMoved (pos + n) (t.advance n v) := by
  obtain ⟨_, _, _, _, _, _, _, rfl⟩ := h
  exact ⟨_, _, _, _, _, _, _, rfl⟩

end

/-- RDHDR reads the tree `t` from `s` to `u`: the source is `t`'s header further on, the next free entry on is the top of `t`, in
new entries only, and the older entries are as they were (R16, R123). The stack is the loop's to set. -/
structure State.ReadTree (s : State) (t : Tree) (u : State) : Prop where
  frame : s.HeaderMoved (s.src.pos + t.header.length) u
  count : u.nodeCount.toNat = s.nodeCount.toNat + t.size
  tree : ∃ is, u.Subtree s.nodeCount t is ∧ ∀ j ∈ is, s.nodeCount.toNat ≤ j.toNat ∧ j.toNat < u.nodeCount.toNat
  old : ∀ j : Idx, j.toNat < s.nodeCount.toNat → u.nodeAt j = s.nodeAt j

/-- What follows a token: the end of the header, or the next token (R123). -/
def readMore (bound : Nat) (s : State) : Res Unit := if s.work.stk = [] then .ok () s else readTokens bound s

theorem readTokens_succ (bound : Nat) (s : State) : readTokens (bound + 1) s = (readToken s).seq (readMore bound) := rfl

/-- `Alloc` in an arena with room (R16). -/
theorem alloc_of_room (n : Node) {s : State} (h : s.nodeCount.toNat ≠ s.cfg.nodeCap) :
    alloc n s = .ok s.nodeCount (s.grow n) := by
  rcases alloc_cases n s with ⟨hfull, -⟩ | ⟨-, e⟩
  · exact absurd hfull h
  · exact e

/-- The state in which a flag bit 0 has opened the next entry as an internal node (R123). -/
def State.opened (v : BitVec 32) (s : State) : State :=
  ((s.advance 1 v).grow (internalNode 0#40 0#10 0#10)).setStk ({ idx := s.nodeCount, leftDone := false } :: s.work.stk)

/-- The state in which a flag bit 1 and a symbol have made the next entry a leaf, before it goes to its place (R123). -/
def State.leafRead (v : BitVec 32) (sym : Sym) (s : State) : State :=
  (((s.advance 1 v).grow (leafNode 0#9 0#40)).advance 9 (sym.setWidth 32)).setNode s.nodeCount (leafNode sym 0#40)

theorem readToken_node {s : State} {more : List Bool} (hr : s.sourceReady) (hcap : s.nodeCount.toNat ≠ s.cfg.nodeCap)
    (h : s.src.rest = false :: more) : ∃ v, readToken s = .ok () (s.opened v) ∧ (s.opened v).src.rest = more := by
  obtain ⟨v, hv, hread⟩ := srcRead_of_bit hr h
  refine ⟨v, ?_, State.advance_rest (bits := [_]) v rfl h⟩
  rw [readToken, hread, Res.bind_ok]
  dsimp only
  rw [if_neg (by rw [hv]; exact Bool.false_ne_true), openNode, alloc_of_room _ (s := s.advance 1 v) hcap]
  rfl

theorem readToken_leaf {s : State} {sym : Sym} {more : List Bool} (hr : s.sourceReady)
    (hcap : s.nodeCount.toNat ≠ s.cfg.nodeCap) (h : s.src.rest = true :: (msbBits 9 sym ++ more)) :
    ∃ v, readToken s = .ok () (attach s.nodeCount s.work.stk (s.leafRead v sym)) := by
  obtain ⟨v, hv, hread⟩ := srcRead_of_bit hr h
  have hrest : (s.advance 1 v).src.rest = msbBits 9 sym ++ more := State.advance_rest (bits := [_]) v rfl h
  have hsym := srcRead_of_field (s := (s.advance 1 v).grow (leafNode 0#9 0#40)) hr (by decide) hrest
  have hnew := (s.advance 1 v).grow_nodeAt_new (leafNode 0#9 0#40)
  refine ⟨v, ?_⟩
  rw [readToken, hread, Res.bind_ok]
  dsimp only
  rw [if_pos hv, readLeafRest, openLeaf, alloc_of_room _ (s := s.advance 1 v) hcap, Res.bind_ok, hsym, Res.bind_ok]
  dsimp only
  rw [BitVec.setWidth_setWidth_of_le _ (by decide), BitVec.setWidth_eq, closeLeaf]
  change Res.ok () (attach _ _ (State.setNode _ _ { ((s.advance 1 v).grow (leafNode 0#9 0#40)).nodeAt s.nodeCount with sym := sym })) = _
  rw [show ((s.advance 1 v).grow (leafNode 0#9 0#40)).nodeAt s.nodeCount = leafNode 0#9 0#40 from hnew]
  rfl

/-- A leaf is read. -/
theorem readTree_leaf {s : State} (hcap : s.cfg.nodeCap < 1024) (hroom : s.nodeCount.toNat < s.cfg.nodeCap) (v : BitVec 32)
    (sym : Sym) : s.ReadTree (.leaf sym) (s.leafRead v sym) where
  frame := by
    rw [Tree.header, List.length_cons, msbBits_length]
    exact ((((State.HeaderMoved.refl s).advance 1 v).grow _).advance 9 _).setNode _ _
  count := nodeCount_succ (s := s) hcap hroom
  tree := by
    have hnew : (s.leafRead v sym).nodeAt s.nodeCount = leafNode sym 0#40 := nodeAt_setNode_self _ _ _
    have hcount : (s.leafRead v sym).nodeCount.toNat = s.nodeCount.toNat + 1 := nodeCount_succ (s := s) hcap hroom
    refine ⟨_, .leaf (by rw [hnew]; rfl) (by rw [hnew]; rfl), fun j hj => ?_⟩
    obtain rfl := List.mem_singleton.1 hj
    omega
  old j hj := by
    have hne : s.nodeCount ≠ j := fun e => by rw [e] at hj; omega
    exact (nodeAt_setNode_of_ne _ _ hne).trans ((s.advance 1 v).grow_nodeAt_old _ hne.symm)

/-- An open node takes its left child (R123). -/
def State.setLeft (p i : Idx) (s : State) : State := s.setNode p { s.nodeAt p with left := i }

/-- An open node takes its right child (R123). -/
def State.setRight (p i : Idx) (s : State) : State := s.setNode p { s.nodeAt p with right := i }

/-- An internal node is read when its subtrees are: the left one after the node is opened, the right one after the left one has
become its left child; it is its right child (R123). -/
theorem readTree_internal {s u w : State} {l r : Tree} {v : BitVec 32} {stk : List StkEntry} (hcap : s.cfg.nodeCap < 1024)
    (hroom : s.nodeCount.toNat < s.cfg.nodeCap) (hl : (s.opened v).ReadTree l u)
    (hr : State.ReadTree ((u.setLeft s.nodeCount (s.opened v).nodeCount).setStk stk) r w) :
    s.ReadTree (.internal l r) (w.setRight s.nodeCount u.nodeCount) := by
  have hopen : (s.opened v).nodeCount.toNat = s.nodeCount.toNat + 1 := nodeCount_succ (s := s) hcap hroom
  have hcl : u.nodeCount.toNat = s.nodeCount.toNat + 1 + l.size := hopen ▸ hl.count
  have hcr : w.nodeCount.toNat = u.nodeCount.toNat + r.size := hr.count
  have hu : u.nodeAt s.nodeCount = internalNode 0#40 0#10 0#10 :=
    (hl.old s.nodeCount (by omega)).trans ((s.advance 1 v).grow_nodeAt_new _)
  have hw : w.nodeAt s.nodeCount = internalNode 0#40 (s.opened v).nodeCount 0#10 := by
    rw [hr.old s.nodeCount (show s.nodeCount.toNat < u.nodeCount.toNat by omega), State.setStk_nodeAt, State.setLeft,
      nodeAt_setNode_self, hu]
    rfl
  have hleft (j : Idx) (hj : j.toNat < u.nodeCount.toNat) (hne : j ≠ s.nodeCount) : w.nodeAt j = u.nodeAt j := by
    rw [hr.old j hj, State.setStk_nodeAt, State.setLeft, nodeAt_setNode_of_ne _ _ hne.symm]
  have htop : (w.setRight s.nodeCount u.nodeCount).nodeAt s.nodeCount =
      internalNode 0#40 (s.opened v).nodeCount u.nodeCount := by
    rw [State.setRight, nodeAt_setNode_self, hw]
    rfl
  have hrest (j : Idx) (hne : j ≠ s.nodeCount) : (w.setRight s.nodeCount u.nodeCount).nodeAt j = w.nodeAt j :=
    nodeAt_setNode_of_ne w _ hne.symm
  have hcount : (w.setRight s.nodeCount u.nodeCount).nodeCount = w.nodeCount := rfl
  refine ⟨?_, ?_, ?_, fun j hj => ?_⟩
  · have hpos : s.src.pos + (Tree.internal l r).header.length = s.src.pos + 1 + l.header.length + r.header.length := by
      simp only [Tree.header, List.length_cons, List.length_append]
      omega
    have hopened : s.HeaderMoved (s.src.pos + 1) (s.opened v) := (((State.HeaderMoved.refl s).advance 1 v).grow _).setStk _
    have hmoved := (((hopened.trans hl.frame).setNode _ _).setStk _).trans hr.frame
    rw [State.setStk_src, State.setLeft, State.setNode_src, hl.frame.src] at hmoved
    rw [hpos]
    exact hmoved.setNode _ _
  · rw [hcount, Tree.size]
    omega
  · obtain ⟨ls, hls, hlb⟩ := hl.tree
    obtain ⟨rs, hrs, hrb⟩ := hr.tree
    have hne (j : Idx) (hj : s.nodeCount.toNat < j.toNat) : j ≠ s.nodeCount := fun e => by rw [e] at hj; omega
    refine ⟨s.nodeCount :: (ls ++ rs), .internal ?_ ?_ ?_, fun j hj => ?_⟩
    · rw [htop]; rfl
    · rw [htop]
      refine hls.frame fun j hj => ?_
      obtain ⟨hge, hlt⟩ := hlb j hj
      rw [hrest j (hne j (by omega)), hleft j hlt (hne j (by omega))]
    · rw [htop]
      refine hrs.frame fun j hj => ?_
      have hge : u.nodeCount.toNat ≤ j.toNat := (hrb j hj).1
      exact hrest j (hne j (by omega))
    · rw [hcount]
      rcases List.mem_cons.1 hj with rfl | hj
      · omega
      · rcases List.mem_append.1 hj with hj | hj
        · obtain ⟨hge, hlt⟩ := hlb j hj
          omega
        · have hge : u.nodeCount.toNat ≤ j.toNat := (hrb j hj).1
          have hlt := (hrb j hj).2
          omega
  · have hne : j ≠ s.nodeCount := fun e => by rw [e] at hj; omega
    have hopened : (s.opened v).nodeAt j = s.nodeAt j := (s.advance 1 v).grow_nodeAt_old _ hne
    rw [hrest j hne, hleft j (by omega) hne, hl.old j (by omega), hopened]

/-- The loop over the header of a tree: the entries that it takes hold the tree, whose top goes to its place below the nodes that
were open before (R123). -/
theorem readTokens_tree (t : Tree) {s : State} {more : List Bool} (hr : s.sourceReady) (hcap : s.cfg.nodeCap < 1024)
    (hroom : s.nodeCount.toNat + t.size ≤ s.cfg.nodeCap) (h : s.src.rest = t.header ++ more) :
    ∃ u, s.ReadTree t u ∧
      ∀ bound, readTokens (bound + t.size) s = readMore bound (attach s.nodeCount s.work.stk u) := by
  induction t generalizing s more with
  | leaf sym =>
    simp only [Tree.size] at hroom
    obtain ⟨v, hread⟩ := readToken_leaf hr (by omega) h
    refine ⟨s.leafRead v sym, readTree_leaf hcap (by omega) v sym, fun bound => ?_⟩
    rw [Tree.size, readTokens_succ, hread, Res.seq_ok]
  | internal l r ihl ihr =>
    simp only [Tree.size] at hroom
    have hheader : s.src.rest = false :: (l.header ++ (r.header ++ more)) := by rw [h, Tree.header]; simp
    obtain ⟨v, hread, hrest⟩ := readToken_node hr (by omega) hheader
    have hopen : (s.opened v).nodeCount.toNat = s.nodeCount.toNat + 1 := nodeCount_succ (s := s) hcap (by omega)
    obtain ⟨u, hu, hloopl⟩ := ihl (s := s.opened v) hr hcap (by rw [hopen]; change _ ≤ s.cfg.nodeCap; omega) hrest
    have husrc := hu.frame.src
    have hucfg := hu.frame.cfg
    have hucount := hu.count
    generalize hm : (u.setLeft s.nodeCount (s.opened v).nodeCount).setStk
      ({ idx := s.nodeCount, leftDone := true } :: s.work.stk) = m
    have hattach : attach (s.opened v).nodeCount (s.opened v).work.stk u = m := hm
    have hmrest : m.src.rest = r.header ++ more := by
      rw [← hm]
      change u.src.rest = _
      rw [husrc]
      exact State.advance_rest (s := s.opened v) (n := l.header.length) 0#32 rfl hrest
    have hmcfg : m.cfg = s.cfg := by rw [← hm]; exact hucfg
    have hmcount : m.nodeCount = u.nodeCount := by rw [← hm]; rfl
    have hmready : m.sourceReady := by
      rw [← hm]
      change u.src.answers = none
      rw [husrc]
      exact hr
    obtain ⟨w, hw, hloopr⟩ := ihr hmready (hmcfg ▸ hcap) (by rw [hmcount, hmcfg]; omega) hmrest
    refine ⟨_, readTree_internal hcap (by omega) hu (hm ▸ hw), fun bound => ?_⟩
    have hsize : bound + (Tree.internal l r).size = bound + r.size + l.size + 1 := by simp only [Tree.size]; omega
    have hopenstk : (s.opened v).work.stk ≠ [] := List.cons_ne_nil _ _
    have hstk : m.work.stk ≠ [] := by rw [← hm]; exact List.cons_ne_nil _ _
    rw [hsize, readTokens_succ, hread, Res.seq_ok, readMore, if_neg hopenstk, hloopl, hattach, readMore,
      if_neg hstk, hloopr, hmcount, ← hm]
    rfl

/-- RDHDR of a header that fits the arena and whose top is internal (R122, R128). -/
theorem rdhdrBody_completes {s : State} {t : Tree} {more : List Bool} (hcfg : s.cfg.wf = true) (hr : s.sourceReady)
    (h : s.src.rest = t.header ++ more) (hint : t.isInternal = true) (hsize : t.size ≤ s.cfg.nodeCap) :
    ∃ u, (rdhdrStart s).ReadTree t u ∧
      rdhdrBody s = .ok () { u.setStk [] with root := 0#10, treeOrigin := .parsed, treeValid := true } ∧
      State.tree { u.setStk [] with root := 0#10, treeOrigin := .parsed, treeValid := true } = some t := by
  obtain ⟨-, hcap, -⟩ := Config.wf_bounds hcfg
  obtain ⟨u, hu, hloop⟩ := readTokens_tree t (s := rdhdrStart s) hr hcap (by simpa using hsize) h
  obtain ⟨is, hs, -⟩ := hu.tree
  have hleaf : ((u.setStk []).nodeAt 0#10).leaf = false := by
    rw [State.setStk_nodeAt]
    exact hs.top.1.trans (by rw [hint]; rfl)
  refine ⟨u, hu, ?_, ?_⟩
  · have hbound : s.cfg.nodeCap + 1 = s.cfg.nodeCap + 1 - t.size + t.size := by omega
    rw [rdhdrBody, hbound, hloop, readMore]
    change (if ([] : List StkEntry) = [] then _ else _ : Res Unit).seq rdhdrEnd = _
    rw [if_pos rfl, Res.seq_ok, rdhdrEnd]
    exact if_neg (by rw [rdhdrStart_work]; exact hleaf ▸ Bool.false_ne_true)
  · have hsub : State.Subtree { u.setStk [] with root := 0#10, treeOrigin := .parsed, treeValid := true } 0#10 t is :=
      hs.frame fun _ _ => rfl
    exact (hsub.views (bound := arenaSize) (by change _ ≤ 1024; omega)).1

/-! ## DECOMPRESS -/

/-- DECOMPRESS of a stream with the magic and a header that fits stands before the body, with the header's tree in the arena
(R148, R152). -/
theorem decompressBody_of_header {s : State} {t : Tree} {body : List Bool} (hcfg : s.cfg.wf = true) (hr : s.sourceReady)
    (h : s.src.rest = msbBits 32 s.cfg.magic ++ t.header ++ body) (hint : t.isInternal = true)
    (hsize : t.size ≤ s.cfg.nodeCap) :
    ∃ u, decompressBody s = decompressAfterHeader u ∧ u.tree = some t ∧ u.src.rest = body ∧ u.sourceReady ∧
      u.snk = s.snk ∧ u.cfg = s.cfg ∧ u.freqValid = s.freqValid := by
  rw [List.append_assoc] at h
  have hmagic := rdmagicBody_completes hr h
  have hheader := State.advance_rest (s := { s with phase := .rdmagic }) s.cfg.magic (msbBits_length 32 s.cfg.magic) h
  obtain ⟨u, hu, hbody, htree⟩ :=
    rdhdrBody_completes (s := State.advance 32 s.cfg.magic { s with phase := .rdmagic }) hcfg hr hheader hint hsize
  refine ⟨_, ?_, htree, ?_⟩
  · rw [decompressBody, hmagic, Res.seq_ok, decompressAfterMagic, hbody, Res.seq_ok]
  · have hrest : u.src.rest = body := by
      rw [hu.frame.src]
      exact State.advance_rest (s := State.advance 32 s.cfg.magic { s with phase := .rdmagic }) (n := t.header.length) 0#32
        rfl hheader
    obtain ⟨_, _, _, _, _, _, _, rfl⟩ := hu.frame
    exact ⟨hrest, hr, rfl, rfl, rfl⟩

/-- Settles O58: the magic and the header give the tree, along which DECBODY decodes the body; CLOSE pads and closes. -/
theorem decompressReadsAFile : Obligations.DecompressReadsAFile := by
  unfold Obligations.DecompressReadsAFile
  intro s tr body more out hcfg hi hr hk h hint hsize hd
  obtain ⟨u, hu, htree, hrest, hru, hsnk, hcfgu, hfreq⟩ :=
    decompressBody_of_header (s := s.start decompressMacro) hcfg hr h hint hsize
  rw [← hrest] at hd
  obtain ⟨w, pos, hw, hm, -⟩ := decbodyBody_completes hru (by rw [State.sinkReady, hsnk]; exact hk) htree hint hd
  have hwsnk : w.snk = { s.snk with bits := s.snk.bits ++ bitsOfBytes out } := by rw [hm.snk, hsnk]; rfl
  have hwk : w.sinkReady := by rw [State.sinkReady, hwsnk]; exact hk
  have hrun : decompressBody (s.start decompressMacro) =
      .ok () (State.sealed { w with treeValid := false, codesValid := false }) := by
    rw [hu, decompressAfterHeader, hw, Res.seq_ok, closeBody_completes (by exact hwk)]
  obtain ⟨n, hpad, hn, hlen⟩ := padding_eq w.cfg.padBit w.snk.bits.length
  have hwcfg : w.cfg = s.cfg := hm.cfg.trans hcfgu
  have hbits : (State.sealed { w with treeValid := false, codesValid := false }).snk.bits =
      s.snk.bits ++ bitsOfBytes out ++ List.replicate n s.cfg.padBit := by
    change w.snk.bits ++ padding w.cfg.padBit w.snk.bits.length = _
    rw [hpad, hwsnk, hwcfg]
  have hwfreq : w.freqValid = s.freqValid := by
    obtain ⟨_, _, _, _, _, _, rfl⟩ := hm
    exact hfreq
  refine ⟨_, n, accept_of_ok hi rfl hrun, hbits, hn, ?_, rfl, rfl, rfl, hwfreq, rfl, rfl, rfl⟩
  rw [State.complete_snk, hbits, List.length_append, List.length_replicate]
  rwa [hwsnk] at hlen

end Sys2Proof.Machine
end

section
/-!
PROOF SUPPORT. ANALYZE where no counter overflows: the loop ends with the number of the words in every counter
(spec/40_frequency_analyzer.md R83 to R85).
-/
namespace Sys2Proof.Machine

/-- A word whose counter is below `CMAX` is counted (R83, R84). -/
theorem countWord_counts {s : State} {x : BitVec 8} (hcfg : s.cfg.wf = true) (h : (s.freqAt x.toNat).toNat < s.cfg.cmax) :
    countWord x s = .ok () (s.setFreq x (s.freqAt x.toNat + 1#32)) ∧
      (s.freqAt x.toNat + 1#32).toNat = (s.freqAt x.toNat).toNat + 1 := by
  refine ⟨if_neg (Nat.ne_of_lt h), ?_⟩
  have hmax : s.cfg.cmax < 2 ^ 32 := by
    have hw : s.cfg.countW ≤ 32 := by
      simp only [Config.wf, Bool.and_eq_true, decide_eq_true_eq] at hcfg
      omega
    have hpow := Nat.pow_le_pow_right (n := 2) (by decide) hw
    rw [Config.cmax]
    omega
  rw [BitVec.toNat_add]
  exact Nat.mod_eq_of_lt (by simp; omega)

/-- The scan counts every word and ends at the end of the source; each word is one read, and one more read finds the end
(R83, R85). -/
theorem analyzeLoop_counts {words : List (BitVec 8)} {s : State} (hcfg : s.cfg.wf = true) (hr : s.sourceReady)
    (hw : s.words = words) (hmax : ∀ x : BitVec 8, (s.freqAt x.toNat).toNat + words.count x ≤ s.cfg.cmax) {bound : Nat}
    (hb : words.length < bound) :
    ∃ u, analyzeLoop bound s = .ok () u ∧ s.Moved s.src.bits.length [] u ∧
      (∀ x : BitVec 8, (u.freqAt x.toNat).toNat = (s.freqAt x.toNat).toNat + words.count x) ∧
      u.trace = s.trace ++ words.map readOf ++ [.srcRead 8 none] := by
  obtain ⟨bound, rfl⟩ := Nat.exists_eq_add_one_of_ne_zero (Nat.ne_of_gt (Nat.zero_lt_of_lt hb))
  induction words generalizing s bound with
  | nil =>
    refine ⟨s.exhaust 8, by rw [analyzeLoop, srcRead_of_words_nil hr hw]; rfl, s.moved_exhaust 8, fun x => ?_, ?_⟩
    · rw [List.count_nil, Nat.add_zero]
      rfl
    · rw [List.map_nil, List.append_nil]
      rfl
  | cons x xs ih =>
    obtain ⟨hread, hxs⟩ := srcRead_of_words_cons hr hw
    have hcount (y : BitVec 8) : (x :: xs).count y = xs.count y + if x = y then 1 else 0 := by
      rw [List.count_cons]
      simp only [beq_iff_eq]
    have hlt : (s.freqAt x.toNat).toNat < s.cfg.cmax := by
      have := hmax x
      rw [hcount, if_pos rfl] at this
      omega
    obtain ⟨hword, hsucc⟩ := countWord_counts (s := s.advance 8 (x.setWidth 32)) hcfg hlt
    generalize ht : (s.advance 8 (x.setWidth 32)).setFreq x ((s.advance 8 (x.setWidth 32)).freqAt x.toNat + 1#32) = t at hword
    have hm : s.Moved (s.src.pos + 8) [] t := ht ▸ s.moved_of_read _ _ _ _ _ _ _
    have htrace : t.trace = s.trace ++ [readOf x] := by rw [← ht]; rfl
    have hfreq (y : BitVec 8) : (t.freqAt y.toNat).toNat = (s.freqAt y.toNat).toNat + if x = y then 1 else 0 := by
      rw [← ht, freqAt_setFreq]
      by_cases hxy : x = y
      · subst hxy
        rw [if_pos rfl, if_pos rfl]
        exact hsucc
      · have hne : x.toNat ≠ y.toNat := fun e => hxy (BitVec.eq_of_toNat_eq e)
        rw [if_neg hne, if_neg hxy]
        rfl
    obtain ⟨bound, rfl⟩ := Nat.exists_eq_add_one_of_ne_zero (n := bound) (by simp at hb; omega)
    have htw : t.words = xs := by rw [← ht]; exact hxs
    obtain ⟨u, hu, hmu, hcounts, hutrace⟩ := ih (hm.cfg ▸ hcfg) (hm.sourceReady hr) htw
      (fun y => by
        have := hmax y
        rw [hcount] at this
        rw [hfreq, hm.cfg]
        omega) bound (by simpa using hb)
    rw [hm.src] at hmu
    refine ⟨u, ?_, hm.trans hmu, fun y => ?_, ?_⟩
    · rw [analyzeLoop, hread, Res.bind_ok]
      dsimp only
      rw [setWidth_setWidth_byte, hword, Res.seq_ok, hu]
    · rw [hcounts, hfreq, hcount]
      omega
    · rw [hutrace, htrace, List.map_cons]
      simp

theorem analyzeStart_freqAt (s : State) (x : BitVec 8) : (analyzeStart s).freqAt x.toNat = 0#32 := by
  simp [State.freqAt, x.isLt]

/-- ANALYZE where no counter overflows (R81 to R85). -/
theorem analyzeBody_completes {s : State} (hcfg : s.cfg.wf = true) (hr : s.sourceReady)
    (hmax : ∀ x, s.words.count x ≤ s.cfg.cmax) :
    ∃ u, analyzeBody s = .ok () u ∧ State.Moved { analyzeStart s with freqValid := true } 0 [] u ∧
      (∀ x : BitVec 8, (u.freqAt x.toNat).toNat = s.words.count x) ∧
      u.trace = s.trace ++ s.words.map readOf ++ [.srcRead 8 none, .srcReset] := by
  have hzero (x : BitVec 8) : ((analyzeStart s).freqAt x.toNat).toNat = 0 := by rw [analyzeStart_freqAt]; rfl
  obtain ⟨u, hu, hm, hcounts, htrace⟩ := analyzeLoop_counts (s := analyzeStart s) hcfg hr rfl
    (fun x => by rw [hzero, Nat.zero_add]; exact hmax x) (words_length_lt (analyzeStart s))
  have hreset := srcReset_of_ready (hm.sourceReady hr)
  refine ⟨{ u with src := { u.src with pos := 0 }, trace := u.trace ++ [.srcReset], freqValid := true }, ?_, ?_, fun x => ?_, ?_⟩
  · change ((analyzeLoop ((analyzeStart s).src.bits.length + 1) (analyzeStart s)).seq srcReset).seq _ = _
    rw [hu, Res.seq_ok, hreset, Res.seq_ok]
  · obtain ⟨_, _, _, _, _, _, rfl⟩ := hm
    exact ⟨_, _, _, _, _, _, rfl⟩
  · refine (hcounts x).trans ?_
    rw [hzero, Nat.zero_add]
    rfl
  · change u.trace ++ [_] = _
    rw [htrace]
    simp
    rfl

end Sys2Proof.Machine
end

section
/-!
PROOF SUPPORT. BUILD and GENCODES go on to their end. The operations of BUILD read and write only the builder's registers, whatever
stands around them (`IsBuilderPart`); so the invariant of the forest, which is one of a CORE without an error, speaks of BUILD from
any state, and BUILD changes nothing else (spec/41_tree_builder.md, spec/42_code_table_generator.md).
-/
namespace Sys2Proof.Machine

/-! ## The builder's registers -/

/-- The builder's registers of `s`, and the configuration, in the surroundings of `o`. -/
def State.within (o s : State) : State :=
  { o with cfg := s.cfg, node := s.node, nodeCount := s.nodeCount, root := s.root, pq := s.pq, work := s.work }

/-- `c` reads and writes only the builder's registers. -/
def IsBuilderPart {α : Type} (c : State → Res α) : Prop := ∀ o s : State, c (o.within s) = (c s).map o.within

theorem Res.map_bind {α β : Type} {r : Res α} {f g : α → State → Res β} {v : State → State}
    (h : ∀ a t, g a (v t) = (f a t).map v) : (r.map v).bind g = (r.bind f).map v := by
  cases r with
  | ok a t => exact h a t
  | stop q t => rfl

theorem Res.map_seq {r : Res Unit} {f g : State → Res Unit} {v : State → State} (h : ∀ t, g (v t) = (f t).map v) :
    (r.map v).seq g = (r.seq f).map v := Res.map_bind fun _ => h

theorem alloc_builder (n : Node) : IsBuilderPart (alloc n) := fun o s => by
  unfold alloc
  change (if s.nodeCount.toNat = s.cfg.nodeCap then _ else _) = _
  split <;> rfl

theorem removeMin_builder : IsBuilderPart removeMin := fun o s => by
  unfold removeMin
  change (match s.pq with | [] => _ | _ :: _ => _) = _
  cases s.pq <;> rfl

theorem loadLeaf_builder (sym : Nat) (c : Count) : IsBuilderPart (loadLeaf sym c) := fun o s => by
  unfold loadLeaf
  split
  · rfl
  · rw [alloc_builder]
    exact Res.map_bind fun _ _ => rfl

theorem loadLeaves_builder (sym : Nat) (counts : List Count) : IsBuilderPart (loadLeaves sym counts) := fun o s => by
  induction counts generalizing sym s with
  | nil => rfl
  | cons c cs ih =>
    rw [loadLeaves, loadLeaves, loadLeaf_builder]
    exact Res.map_seq (ih _)

theorem mergeOnce_builder : IsBuilderPart mergeOnce := fun o s => by
  rw [mergeOnce, mergeOnce, removeMin_builder]
  refine Res.map_bind fun a t => ?_
  change (removeMin (o.within { t with work := { t.work with a := a } })).bind _ = _
  rw [removeMin_builder]
  refine Res.map_bind fun b u => ?_
  change (alloc _ (o.within { u with work := { u.work with b := b } })).bind _ = _
  rw [alloc_builder]
  exact Res.map_bind fun _ _ => rfl

theorem mergeLoop_builder (bound : Nat) : IsBuilderPart (mergeLoop bound) := fun o s => by
  induction bound generalizing s with
  | zero => rfl
  | succ bound ih =>
    unfold mergeLoop
    change (if 1 < s.pq.length then _ else _) = _
    split
    · rw [mergeOnce_builder]
      exact Res.map_seq ih
    · rfl

theorem degenerate_builder : IsBuilderPart degenerate := fun o s => by
  rw [degenerate, degenerate, removeMin_builder]
  refine Res.map_bind fun a t => ?_
  change (alloc _ (o.within { t with work := { t.work with a := a } })).bind _ = _
  rw [alloc_builder]
  refine Res.map_bind fun p u => ?_
  rw [alloc_builder]
  exact Res.map_bind fun _ _ => rfl

theorem mergeAll_builder : IsBuilderPart mergeAll := fun o s => by
  change (mergeLoop s.pq.length (o.within s)).seq _ = _
  rw [mergeLoop_builder]
  refine Res.map_seq fun t => ?_
  rw [removeMin_builder]
  exact Res.map_bind fun _ _ => rfl

/-- What BUILD does between its start and its end (R92). -/
def buildArena (counts : List Count) (s : State) : Res Unit :=
  (loadLeaves 0 counts s).seq fun s => if s.pq.length = 1 then degenerate s else mergeAll s

theorem buildArena_builder (counts : List Count) : IsBuilderPart (buildArena counts) := fun o s => by
  rw [buildArena, buildArena, loadLeaves_builder]
  refine Res.map_seq fun t => ?_
  change (if t.pq.length = 1 then _ else _) = _
  split
  · exact degenerate_builder o t
  · exact mergeAll_builder o t

theorem buildBody_eq (s : State) :
    buildBody s = (buildArena s.counts (buildStart s)).seq fun t => .ok () (buildEnd t) := rfl

/-! ## The operations of BUILD go on: the arena has room for 513 nodes (R5, R100) -/

theorem Res.Safe.of_ok {α : Type} {Q : α → State → Prop} {r : Res α} {a : α} {t : State} (h : r.Safe Q) (hr : r = .ok a t) :
    Q a t := by
  subst hr
  exact h

theorem loadLeaf_completes (sym : Nat) (c : Count) {ls : List Sym} {s : State} (h : s.Loading ls) (hn : ls.length < 257) :
    ∃ t, loadLeaf sym c s = .ok () t ∧ t.Loading (ls ++ positiveFrom sym [c]) := by
  have hcap := (Config.wf_bounds h.cfgWf).1
  have hcount := h.count
  rw [State.tops_length, h.queued] at hcount
  obtain ⟨t, ht⟩ : ∃ t, loadLeaf sym c s = .ok () t := by
    unfold loadLeaf
    split
    · exact ⟨_, rfl⟩
    · rw [alloc_of_room _ (by omega)]
      exact ⟨_, rfl⟩
  exact ⟨t, ht, (loadLeaf_loading sym c h hn).of_ok ht⟩

theorem loadLeaves_completes (sym : Nat) (counts : List Count) {ls : List Sym} {s : State} (h : s.Loading ls)
    (hn : ls.length + counts.length ≤ 257) :
    ∃ t, loadLeaves sym counts s = .ok () t ∧ t.Loading (ls ++ positiveFrom sym counts) := by
  obtain ⟨t, ht⟩ : ∃ t, loadLeaves sym counts s = .ok () t := by
    induction counts generalizing sym ls s with
    | nil => exact ⟨s, rfl⟩
    | cons c cs ih =>
      rw [List.length_cons] at hn
      obtain ⟨t, ht, hload⟩ := loadLeaf_completes sym c h (by omega)
      have hlen := positiveFrom_length_le sym [c]
      rw [List.length_singleton] at hlen
      obtain ⟨u, hu⟩ := ih (sym + 1) hload (by rw [List.length_append]; omega)
      exact ⟨u, by rw [loadLeaves, ht, Res.seq_ok, hu]⟩
  exact ⟨t, ht, (loadLeaves_loading sym counts h hn).of_ok ht⟩

theorem removeMin_of_cons {s : State} {e : QEntry} {q : List QEntry} (h : s.pq = e :: q) :
    removeMin s = .ok e { s with pq := q } := by
  rw [removeMin, h]

theorem mergeOnce_completes {ls : List Sym} {s : State} (h : s.Grove s.tops ls) (hn : ls.length ≤ 257)
    (hq : 1 < s.pq.length) :
    ∃ t, mergeOnce s = .ok () t ∧ t.Grove t.tops ls ∧ t.pq.length + 1 = s.pq.length := by
  have hcap := (Config.wf_bounds h.cfgWf).1
  have hcount := h.count
  rw [State.tops_length] at hcount
  obtain ⟨t, ht⟩ : ∃ t, mergeOnce s = .ok () t := by
    obtain ⟨a, b, q, hpq⟩ : ∃ a b q, s.pq = a :: b :: q := by
      match hpq : s.pq, hq with
      | a :: b :: q, _ => exact ⟨a, b, q, rfl⟩
    rw [mergeOnce, removeMin_of_cons hpq, Res.bind_ok, removeMin_of_cons (q := q) rfl, Res.bind_ok, alloc_of_room]
    · exact ⟨_, rfl⟩
    · change s.nodeCount.toNat ≠ s.cfg.nodeCap
      omega
  exact ⟨t, ht, (mergeOnce_grove h hn).of_ok ht⟩

theorem mergeLoop_completes (bound : Nat) {ls : List Sym} {s : State} (h : s.Grove s.tops ls) (hn : ls.length ≤ 257)
    (hq : 0 < s.pq.length) : ∃ t, mergeLoop bound s = .ok () t ∧ 0 < t.pq.length := by
  induction bound generalizing s with
  | zero => exact ⟨s, rfl, hq⟩
  | succ bound ih =>
    unfold mergeLoop
    split
    · next h1 =>
      obtain ⟨t, ht, hg, hlen⟩ := mergeOnce_completes h hn h1
      obtain ⟨u, hu, hpos⟩ := ih hg (by omega)
      exact ⟨u, by rw [ht, Res.seq_ok, hu], hpos⟩
    · exact ⟨s, rfl, hq⟩

theorem mergeAll_completes {ls : List Sym} {s : State} (h : s.Grove s.tops ls) (h1 : 1 < ls.length) (hn : ls.length ≤ 257)
    (hq : 0 < s.pq.length) : ∃ t, mergeAll s = .ok () t ∧ t.TreeBuilt ls := by
  obtain ⟨t, ht⟩ : ∃ t, mergeAll s = .ok () t := by
    obtain ⟨t, ht, hpos⟩ := mergeLoop_completes s.pq.length h hn hq
    obtain ⟨e, q, hpq⟩ := List.exists_cons_of_length_pos hpos
    exact ⟨_, by rw [mergeAll, ht, Res.seq_ok, removeMin_of_cons hpq, Res.bind_ok]⟩
  exact ⟨t, ht, (mergeAll_built h h1 hn).of_ok ht⟩

/-- A forest of one tree is the tree that BUILD makes once its top names the root (R97). -/
theorem State.Grove.treeBuilt {i : Idx} {ls : List Sym} {s : State} (h : s.Grove [i] ls) (h1 : 1 < ls.length)
    (hq : s.pq = []) (hcap : s.nodeCount.toNat ≤ s.cfg.nodeCap) : State.TreeBuilt ls { s with root := i } :=
  have hroot := h.update s.pq s.work i
  { hroot.toTablesHidden with tree := hroot.holdsTree rfl h1 hcap, queue := hq }

/-- The arena after the placeholder and the wrapper of a lone leaf at `i` are made (R98). -/
def State.wrap (i : Idx) (w : Weight) (s : State) : State :=
  (s.grow (leafNode s.cfg.placeholderSym 0#40)).grow (internalNode w i s.nodeCount)

theorem wrap_completes {s : State} (h : s.nodeCount.toNat + 1 < s.cfg.nodeCap) (hcap : s.cfg.nodeCap < 1024) (i : Idx)
    (w : Weight) :
    ((alloc (leafNode s.cfg.placeholderSym 0#40) s).bind fun p t =>
      (alloc (internalNode w i p) t).bind fun r t => .ok () { t with root := r }) =
    .ok () { s.wrap i w with root := s.nodeCount + 1#10 } := by
  have hsucc : (s.nodeCount + 1#10).toNat = s.nodeCount.toNat + 1 := nodeCount_succ hcap (by omega)
  rw [alloc_of_room _ (by omega), Res.bind_ok, alloc_of_room _ (Nat.ne_of_lt (hsucc ▸ h)), Res.bind_ok]
  rfl

theorem wrap_grove {i : Idx} {x : Sym} {s : State} (h : s.Grove [i] [x]) (w : Weight) :
    (s.wrap i w).Grove [s.nodeCount + 1#10] [s.cfg.placeholderSym, x] := by
  have hcap := (Config.wf_bounds h.cfgWf).1
  have hcount : s.nodeCount.toNat + 1 = 2 * 1 := h.count
  have hpair := (h.plant (by omega) s.cfg.placeholderSym 0#40).perm (.swap ..)
  have hpaircount : (s.grow (leafNode s.cfg.placeholderSym 0#40)).nodeCount.toNat + 2 = 2 * 2 := hpair.count
  exact hpair.join (show _ < s.cfg.nodeCap by omega) w

/-- A lone leaf gets the configured placeholder as its sibling (R98). -/
theorem degenerate_completes {x : Sym} {s : State} (h : s.Grove s.tops [x]) (hq : s.pq.length = 1) :
    ∃ t, degenerate s = .ok () t ∧ t.TreeBuilt [s.cfg.placeholderSym, x] := by
  obtain ⟨e, hpq⟩ := List.length_eq_one_iff.1 hq
  rw [State.tops, hpq] at h
  obtain ⟨hcap, hcap', -⟩ := Config.wf_bounds h.cfgWf
  have hcount : s.nodeCount.toNat + 1 = 2 * 1 := h.count
  obtain ⟨v, hv⟩ : ∃ v, v = { s with pq := [], work := { s.work with a := e } } := ⟨_, rfl⟩
  have hlone : v.Grove [e.idx] [x] := hv ▸ h.update [] { s.work with a := e } s.root
  have hvcfg : v.cfg = s.cfg := by rw [hv]
  have hvcount : v.nodeCount = s.nodeCount := by rw [hv]
  have hwrap := wrap_grove hlone e.weight
  have hwrapcount : (v.wrap e.idx e.weight).nodeCount.toNat + 1 = 2 * 2 := hwrap.count
  have hqueue : (v.wrap e.idx e.weight).pq = [] := by rw [hv]; rfl
  refine ⟨_, ?_, hvcfg ▸ hwrap.treeBuilt (by simp) hqueue (show _ ≤ v.cfg.nodeCap by rw [hvcfg]; omega)⟩
  rw [degenerate, removeMin_of_cons hpq, Res.bind_ok]
  change ((alloc (leafNode s.cfg.placeholderSym 0#40) { s with pq := [], work := { s.work with a := e } }).bind _) = _
  rw [← hv, ← hvcfg]
  exact wrap_completes (by rw [hvcount, hvcfg]; omega) (hvcfg ▸ hcap') e.idx e.weight

/-! ## BUILD -/

/-- The leaves of the tree that BUILD makes, in some order: the symbols with a positive count, and the placeholder beside a lone
end-of-stream symbol (R93, R98). -/
def State.leavesToBuild (s : State) : List Sym :=
  if positiveFrom 0 s.counts = [eosSym] then [s.cfg.placeholderSym, eosSym] else positiveFrom 0 s.counts

theorem builtLeaves_leavesToBuild {s : State} (h : s.cfg.wf = true) : BuiltLeaves s.leavesToBuild := by
  unfold State.leavesToBuild
  split
  · exact builtLeaves_placeholder (Config.wf_bounds h).2.2
  · exact builtLeaves_positive s

theorem buildArena_completes {s t : State} (h : t.Loading []) (hcfg : t.cfg = s.cfg) :
    ∃ u, buildArena s.counts t = .ok () u ∧ u.TreeBuilt s.leavesToBuild := by
  have hlen : (positiveFrom 0 s.counts).length ≤ 257 := counts_length s ▸ positiveFrom_length_le 0 s.counts
  have hleaves := builtLeaves_positive s
  have hpos := List.length_pos_of_mem hleaves.eos
  obtain ⟨v, hv, hload⟩ := loadLeaves_completes 0 s.counts h (by rw [counts_length]; rfl)
  rw [List.nil_append] at hload
  have hqueued := hload.queued
  have hvcfg : v.cfg = s.cfg := by
    have hkept := (loadLeaves_part 0 s.counts id id t).kept
    rw [hv] at hkept
    exact (congrArg State.cfg hkept.1).trans hcfg
  rw [buildArena, hv, Res.seq_ok, State.leavesToBuild]
  by_cases h1 : v.pq.length = 1
  · obtain ⟨x, hx⟩ := List.length_eq_one_iff.1 (hqueued ▸ h1)
    have hmem := hleaves.eos
    rw [hx] at hload hmem
    obtain rfl := List.mem_singleton.1 hmem
    rw [if_pos h1, if_pos hx, ← hvcfg]
    exact degenerate_completes hload.toGrove h1
  · have hne : positiveFrom 0 s.counts ≠ [eosSym] := fun e => h1 (by rw [hqueued, e]; rfl)
    rw [if_neg h1, if_neg hne]
    exact mergeAll_completes hload.toGrove (by omega) hlen (by omega)

/-- BUILD changes the builder's registers only. -/
def State.ArenaWritten (s t : State) : Prop :=
  ∃ node nodeCount root pq work, t = { s with node := node, nodeCount := nodeCount, root := root, pq := pq, work := work }

/-- BUILD completes from every frequency table, with the tree in the arena (R92, R102). -/
theorem buildBody_completes {s : State} (hcfg : s.cfg.wf = true) :
    ∃ u t, buildBody s = .ok () u ∧ State.ArenaWritten (buildEnd (buildStart s)) u ∧ u.HoldsTree t ∧
      t.leaves.Perm s.leavesToBuild := by
  -- The surroundings of a CORE without an error, in which the invariant of the forest holds.
  obtain ⟨o, ho⟩ : ∃ o, o = { buildStart s with errCode := none, busy := true, done := false, src := State.reset.src } :=
    ⟨_, rfl⟩
  have hload : o.Loading [] := by
    rw [ho]
    exact { cfgWf := hcfg, busy := rfl, done := rfl, noError := rfl, streams := rfl, noTree := rfl, noCodes := rfl
            forest := ⟨[], [], .nil, .rfl, .rfl⟩, count := rfl, queued := rfl }
  obtain ⟨v, hv, hbuilt⟩ := buildArena_completes hload (s := s) (by rw [ho]; rfl)
  obtain ⟨t, htree, hperm⟩ := hbuilt.tree
  have hwithin : o = o.within (buildStart s) := by rw [ho]; rfl
  rw [hwithin, buildArena_builder] at hv
  cases hrun : buildArena s.counts (buildStart s) with
  | stop q w => rw [hrun] at hv; cases hv
  | ok a w =>
    rw [hrun] at hv
    cases hv
    have hself := buildArena_builder s.counts (buildStart s) (buildStart s)
    change buildArena s.counts (buildStart s) = _ at hself
    rw [hrun] at hself
    have hw : w = (buildStart s).within w := (Res.ok.inj hself).2
    have hwcfg : w.cfg = s.cfg := by
      have hkept := (((loadLeaves_part 0 s.counts).seq buildTree_part) id id (buildStart s)).kept
      change (buildArena s.counts (buildStart s)).Ends _ at hkept
      rw [hrun] at hkept
      exact (congrArg State.cfg hkept.1 :)
    obtain ⟨⟨is, hs, ha⟩, hint, hroom⟩ := htree
    refine ⟨buildEnd w, t, ?_, ?_, ⟨⟨is, hs.frame fun _ _ => rfl, ha⟩, hint, hroom⟩, hperm⟩
    · rw [buildBody_eq, hrun, Res.seq_ok]
    · rw [hw, State.within, hwcfg]
      exact ⟨_, _, _, _, _, rfl⟩

/-! ## GENCODES -/

/-- `Walk` over the tree that the arena holds goes on (R107). -/
theorem walk_completes {s₀ : State} {bound : Nat} {i : Idx} {t : Tree} (ht : treeAt bound s₀ i = some t) (len : Len)
    (bits : CodeBits) {s : State} (hs : s₀.CodesWritten s) :
    ∃ u, walk bound i len bits s = .ok () u ∧ s₀.CodesWritten u := by
  induction bound generalizing i t len bits s with
  | zero => cases ht
  | succ bound ih =>
    have hpath : s₀.CodesWritten (s.setPath len bits) := hs.trans ⟨_, _, _, rfl⟩
    have hnode : (s.setPath len bits).nodeAt i = s₀.nodeAt i := hpath.nodeAt i
    rcases treeAt_succ ht with ⟨hl, -⟩ | ⟨hl, l, r, htl, htr, -⟩
    · refine ⟨(s.setPath len bits).setCode (s₀.nodeAt i).sym len bits, ?_, hpath.trans ⟨_, _, _, rfl⟩⟩
      simp only [walk, hnode, hl, if_true]
    · obtain ⟨v, hv, hwv⟩ := ih htl (len + 1#9) (bits <<< 1) hpath
      obtain ⟨u, hu, hwu⟩ := ih htr (len + 1#9) ((bits <<< 1) ||| 1#256) hwv
      refine ⟨u, ?_, hwu⟩
      simp only [walk, hnode, hl, Bool.false_eq_true, if_false, hv, Res.seq_ok, hwv.nodeAt i, hu]

/-- GENCODES of a built tree gives every symbol its code (R106 to R108). -/
theorem gencodesBody_completes {s : State} {t : Tree} (ht : s.tree = some t) (hl : BuiltLeaves t.leaves) :
    ∃ u, gencodesBody s = .ok () u ∧ State.CodesWritten { s with phase := .gencodes, codesValid := true } u ∧
      ∀ x : Sym, u.codeOf x.toNat = t.codeOf x := by
  have hstart : treeAt arenaSize (gencodesStart s) s.root = some t :=
    (treeAt_congr (s := s) (t := gencodesStart s) rfl arenaSize s.root).trans ht
  obtain ⟨is, hsub⟩ := subtree_of_treeAt hstart
  obtain ⟨v, hv, -⟩ := walk_completes hstart 0#9 0#256 (.refl _)
  have hwalk := (walk_safe hsub hl.nodup hl.le_eos arenaSize 0#9 0#256 (by simpa using hl.length_le) (.refl _)).of_ok hv
  refine ⟨{ v with codesValid := true }, ?_, ?_, fun x => ?_⟩
  · rw [gencodesBody, hv, Res.seq_ok]
  · obtain ⟨_, _, _, rfl⟩ := hwalk.frame
    exact ⟨_, _, _, rfl⟩
  · change v.codeOf x.toNat = _
    rcases t.codeOf_cases x with hx | ⟨hx, hnone⟩
    · exact hwalk.inside x _ hx
    · rw [hwalk.outside x hx, gencodesStart_codeOf, hnone]

end Sys2Proof.Machine
end

section
/-!
PROOF of O57 (CompressWritesTheFile): the symbols that the words give to BUILD, and COMPRESS from its parts.
-/
namespace Sys2Proof.Machine

/-! ## The symbols that the words give to BUILD -/

theorem mem_positiveFrom {sym : Nat} {counts : List Count} {y : Sym} :
    y ∈ positiveFrom sym counts ↔ ∃ i c, counts[i]? = some c ∧ c ≠ 0#32 ∧ y = BitVec.ofNat 9 (sym + i) := by
  induction counts generalizing sym with
  | nil => simp [positiveFrom]
  | cons c cs ih =>
    have hsplit : (∃ i d, (c :: cs)[i]? = some d ∧ d ≠ 0#32 ∧ y = BitVec.ofNat 9 (sym + i)) ↔
        (c ≠ 0#32 ∧ y = BitVec.ofNat 9 sym) ∨
        ∃ i d, cs[i]? = some d ∧ d ≠ 0#32 ∧ y = BitVec.ofNat 9 (sym + 1 + i) := by
      constructor
      · rintro ⟨i, d, hd, hne, hy⟩
        cases i with
        | zero => exact .inl ⟨by rw [Option.some.inj hd]; exact hne, hy⟩
        | succ i => exact .inr ⟨i, d, hd, hne, by rw [hy, Nat.add_assoc, Nat.add_comm 1 i]⟩
      · rintro (⟨hne, hy⟩ | ⟨i, d, hd, hne, hy⟩)
        · exact ⟨0, c, rfl, hne, hy⟩
        · exact ⟨i + 1, d, hd, hne, by rw [hy, Nat.add_assoc, Nat.add_comm 1 i]⟩
    rw [hsplit, ← ih, positiveFrom]
    split
    · next hc => simp [hc]
    · next hc => simp [hc]

/-- The counts in symbol order are those that the accessor gives (R14). -/
theorem counts_getElem? (s : State) {i : Nat} (h : i < 257) : s.counts[i]? = some (s.freqAt i) := by
  by_cases hi : i < 256
  · simp [State.counts, State.freqAt, List.getElem?_append_left, hi]
  · obtain rfl : i = 256 := by omega
    rw [freqAt_eos]
    simp [State.counts]

/-- After ANALYZE the positive symbols are those of the words and the end-of-stream symbol (R14, R83, R93). -/
theorem mem_positive_iff {s : State} {words : List (BitVec 8)}
    (h : ∀ x : BitVec 8, (s.freqAt x.toNat).toNat = words.count x) (y : Sym) :
    y ∈ positiveFrom 0 s.counts ↔ y = eosSym ∨ ∃ x ∈ words, y = x.setWidth 9 := by
  have hcount (x : BitVec 8) : s.freqAt x.toNat ≠ 0#32 ↔ x ∈ words := by
    rw [← List.count_pos_iff, ← h, Nat.pos_iff_ne_zero, ne_eq, ne_eq, ← BitVec.toNat_inj]
    rfl
  rw [mem_positiveFrom]
  constructor
  · rintro ⟨i, c, hc, hne, rfl⟩
    have hi : i < 257 := counts_length s ▸ (List.getElem?_eq_some_iff.1 hc).1
    rw [counts_getElem? s hi] at hc
    cases hc
    rw [Nat.zero_add]
    by_cases h256 : i = 256
    · exact .inl (by rw [h256])
    · have hx : (BitVec.ofNat 8 i).toNat = i := Nat.mod_eq_of_lt (by omega)
      refine .inr ⟨BitVec.ofNat 8 i, (hcount _).1 (hx.symm ▸ hne), BitVec.eq_of_toNat_eq ?_⟩
      rw [BitVec.toNat_setWidth, hx, BitVec.toNat_ofNat]
  · rintro (rfl | ⟨x, hx, rfl⟩)
    · exact ⟨256, _, counts_getElem? s (by decide), by rw [freqAt_eos]; decide, rfl⟩
    · refine ⟨x.toNat, _, counts_getElem? s (by have := x.isLt; omega), (hcount x).2 hx, ?_⟩
      rw [Nat.zero_add, BitVec.ofNat_toNat]

theorem setWidth_byte_ne_eos (x : BitVec 8) : x.setWidth 9 ≠ eosSym := fun e => by
  have h := congrArg BitVec.toNat e
  rw [BitVec.toNat_setWidth, Nat.mod_eq_of_lt (by have := x.isLt; omega)] at h
  exact absurd x.isLt (by rw [h]; decide)

/-- The leaves of the tree that BUILD makes after ANALYZE of the words (R93, R98, R102). -/
theorem mem_leavesToBuild_iff {s : State} {words : List (BitVec 8)}
    (h : ∀ x : BitVec 8, (s.freqAt x.toNat).toNat = words.count x) (y : Sym) :
    y ∈ s.leavesToBuild ↔ y = eosSym ∨ (∃ x ∈ words, y = x.setWidth 9) ∨ (words = [] ∧ y = s.cfg.placeholderSym) := by
  have hmem := mem_positive_iff h
  unfold State.leavesToBuild
  split
  · next hlone =>
    have hnone : ∀ x, x ∉ words := fun x hx => by
      have hpos := (hmem (x.setWidth 9)).2 (.inr ⟨x, hx, rfl⟩)
      rw [hlone] at hpos
      exact setWidth_byte_ne_eos x (List.mem_singleton.1 hpos)
    obtain rfl := List.eq_nil_iff_forall_not_mem.2 hnone
    simp [or_comm]
  · next hmany =>
    have hword : words ≠ [] := fun hnil => hmany <| by
      have hnd := (builtLeaves_positive s).nodup
      have heos := (builtLeaves_positive s).eos
      have hall : ∀ z ∈ positiveFrom 0 s.counts, z = eosSym := fun z hz => by simpa [hnil] using (hmem z).1 hz
      exact List.perm_singleton.1 ((List.perm_ext_iff_of_nodup hnd (List.nodup_singleton _)).2 fun z =>
        ⟨fun hz => List.mem_singleton.2 (hall z hz), fun hz => List.mem_singleton.1 hz ▸ heos⟩)
    rw [hmem]
    simp [hword]

/-! ## COMPRESS -/

/-- A leaf of a tree with an internal top has a code that is not empty (R106). -/
theorem Tree.codeOf_ne_nil {t : Tree} (hint : t.isInternal = true) {x : Sym} (hx : x ∈ t.leaves) : t.codeOf x ≠ [] := by
  rcases t.codeOf_cases x with h | ⟨h, -⟩
  · cases t with
    | leaf => cases hint
    | internal l r =>
      intro hnil
      rw [hnil] at h
      simp [Tree.codes] at h
  · exact absurd hx h

/-- ANALYZE, BUILD and GENCODES one after another make the tree and the codes of the words (R151). -/
theorem tables_of_words {s : State} (hcfg : s.cfg.wf = true) (hr : s.sourceReady)
    (hmax : ∀ x, s.words.count x ≤ s.cfg.cmax) :
    ∃ a b c t, analyzeBody s = .ok () a ∧ buildBody a = .ok () b ∧ gencodesBody b = .ok () c ∧
      State.Moved { analyzeStart s with freqValid := true } 0 [] a ∧ State.ArenaWritten (buildEnd (buildStart a)) b ∧
      State.CodesWritten { b with phase := .gencodes, codesValid := true } c ∧ b.HoldsTree t ∧
      t.leaves.Perm a.leavesToBuild ∧ (∀ x : BitVec 8, (a.freqAt x.toNat).toNat = s.words.count x) ∧
      ∀ x : Sym, c.codeOf x.toNat = t.codeOf x := by
  obtain ⟨a, ha, hma, hcounts, -⟩ := analyzeBody_completes hcfg hr hmax
  have hacfg : a.cfg.wf = true := hma.cfg ▸ hcfg
  obtain ⟨b, t, hb, hwb, hholds, hperm⟩ := buildBody_completes hacfg
  obtain ⟨c, hc, hwc, hcodes⟩ := gencodesBody_completes hholds.views.1 ((builtLeaves_leavesToBuild hacfg).perm hperm)
  exact ⟨a, b, c, t, ha, hb, hc, hma, hwb, hwc, hholds, hperm, hcounts, hcodes⟩

/-- What the three commands keep, with the source rewound (R83, R92, R107). -/
theorem tables_kept {s a b c : State} (ha : State.Moved { analyzeStart s with freqValid := true } 0 [] a)
    (hb : State.ArenaWritten (buildEnd (buildStart a)) b)
    (hc : State.CodesWritten { b with phase := .gencodes, codesValid := true } c) :
    c.src = { s.src with pos := 0 } ∧ c.snk = s.snk ∧ c.cfg = s.cfg ∧ c.freqValid = false ∧ c.errCode = s.errCode := by
  have hsnk := ha.snk
  rw [List.append_nil] at hsnk
  obtain ⟨_, _, _, _, _, rfl⟩ := hb
  obtain ⟨_, _, _, rfl⟩ := hc
  exact ⟨ha.src, hsnk, ha.cfg, rfl, ha.errCode⟩

/-- With the tree and its codes made, COMPRESS writes the file and closes the sink (R50, R151). -/
theorem compressFile_completes {s : State} {t : Tree} (hr : s.sourceReady) (hk : s.sinkReady) (ht : s.tree = some t)
    (hsize : t.size ≤ 1023) (hint : t.isInternal = true) (hcodes : ∀ x : Sym, s.codeOf x.toNat = t.codeOf x)
    (hwords : ∀ x ∈ s.words, x.setWidth 9 ∈ t.leaves) :
    ∃ u : State, (wrmagicBody s).seq compressAfterMagic =
        .ok () (State.sealed { u with codesValid := false, treeValid := false }) ∧
      u.snk = { s.snk with bits := s.snk.bits ++ fileBits s.cfg.magic t s.words } ∧
      u.src = { s.src with pos := s.src.bits.length } ∧ u.cfg = s.cfg ∧ u.tree = some t ∧ u.freqValid = s.freqValid ∧
      u.errCode = s.errCode := by
  have hword (x : BitVec 8) : s.codeOf x.toNat = t.codeOf (x.setWidth 9) := by
    rw [← hcodes, BitVec.toNat_setWidth, Nat.mod_eq_of_lt (by have := x.isLt; omega)]
  have hne : ∀ x ∈ s.words, s.codeLenAt x.toNat ≠ 0#9 := fun x hx => by
    rw [ne_eq, codeLenAt_eq_zero_iff, hword]
    exact t.codeOf_ne_nil hint (hwords x hx)
  have hbody : s.words.flatMap (fun x => s.codeOf x.toNat) ++ s.codeOf 256 = t.body s.words := by
    rw [Tree.body, ← hcodes eosSym]
    simp only [hword]
    rfl
  have hmagic := wrmagicBody_completes hk
  have hmove := State.moved_append { s with phase := .wrmagic } 32 s.cfg.magic
  have htree := hmove.tree.trans ((tree_congr s { s with phase := .wrmagic } rfl rfl).trans ht)
  obtain ⟨trace, hheader⟩ := wrhdrBody_completes (hmove.sinkReady hk) htree hsize
  obtain ⟨u, hu, hm⟩ := encbodyBody_completes (s := State.withHeader t.header [] trace
    { State.append 32 s.cfg.magic { s with phase := .wrmagic } with phase := .wrhdr }) hr hk hne
  have hclose : State.sinkReady { u with codesValid := false, treeValid := false } := hm.sinkReady hk
  refine ⟨u, ?_, ?_, hm.src, hm.cfg, hm.tree.trans ?_, hm.freqValid, hm.errCode⟩
  · rw [hmagic, Res.seq_ok, compressAfterMagic, hheader, Res.seq_ok, compressAfterHeader, hu, Res.seq_ok,
      closeBody_completes hclose]
  · change State.Moved _ _ (s.words.flatMap (fun x => s.codeOf x.toNat) ++ s.codeOf 256) u at hm
    rw [hbody] at hm
    rw [hm.snk, fileBits, ← List.append_assoc, ← List.append_assoc]
    rfl
  · rw [← ht]
    exact tree_congr _ _ rfl rfl

/-- The run of COMPRESS does not read what the command word puts into `macroCmd` (R22). -/
theorem compressBody_start (s : State) :
    compressBody (s.start compressMacro) =
      (compressBody (s.start noMacro)).map (State.relabel id fun _ => compressMacro) :=
  (compressBody_part id (fun _ => compressMacro) (s.start noMacro)).relabelled

/-- BUILD of an idle CORE after ANALYZE is the BUILD inside COMPRESS: nothing of the command word between them is kept. -/
theorem buildBody_start {s a : State} (h : State.Moved { analyzeStart (s.start noMacro) with freqValid := true } 0 [] a) :
    buildBody (a.complete.start noMacro) = buildBody a := by
  obtain ⟨_, _, _, _, _, _, rfl⟩ := h
  rfl

/-- Settles O57: COMPRESS is ANALYZE, BUILD and GENCODES, whose tree has the words' leaves, and then the writing of the file. -/
theorem compressWritesTheFile : Obligations.CompressWritesTheFile := by
  unfold Obligations.CompressWritesTheFile
  intro s hcfg hi hr hk hpos hmax
  obtain ⟨a, b, c, tr, ha, hb, hc, hma, hwb, hwc, hholds, hperm, hcounts, hcodes⟩ :=
    tables_of_words (s := s.start noMacro) hcfg hr hmax
  obtain ⟨htree, -, hsize⟩ := hholds.views
  have hleaves (y : Sym) : y ∈ tr.leaves ↔
      y = eosSym ∨ (∃ x ∈ s.words, y = x.setWidth 9) ∨ (s.words = [] ∧ y = s.cfg.placeholderSym) := by
    rw [hperm.mem_iff, mem_leavesToBuild_iff hcounts, hma.cfg]
    rfl
  have hwords : ∀ x ∈ s.words, x.setWidth 9 ∈ tr.leaves := fun x hx => (hleaves _).2 (.inr (.inl ⟨x, hx, rfl⟩))
  have hanalyze : exec .analyze s = .next a.complete := accept_of_ok hi rfl ha
  have hbuild : exec .build a.complete = .next b.complete :=
    accept_of_ok (s := a.complete) (pre := buildReady) ⟨rfl, rfl⟩ hma.freqValid ((buildBody_start hma).trans hb)
  have hctree : c.tree = some tr := by
    obtain ⟨codeLen, codeBits, work, hceq⟩ := hwc
    exact (tree_congr b c (by rw [hceq]) (by rw [hceq])).trans htree
  have hbvalid : b.treeValid = true := by
    obtain ⟨_, _, _, _, _, rfl⟩ := hwb
    rfl
  have hcap : tr.size ≤ 1023 := by have := b.nodeCount.isLt; omega
  obtain ⟨hrewound, hsnk, hccfg, hcfreq, hcerr⟩ : c.src = { s.src with pos := 0 } ∧ c.snk = s.snk ∧ c.cfg = s.cfg ∧
      c.freqValid = false ∧ c.errCode = s.errCode :=
    tables_kept (s := s.start noMacro) hma hwb hwc
  have hsrc : c.src = s.src := hrewound.trans (hpos ▸ rfl)
  have hcwords : c.words = s.words := by rw [State.words, hsrc, State.words]
  obtain ⟨u, hu, husnk, husrc, hucfg, hutree, hufreq, huerr⟩ := compressFile_completes (s := c) (t := tr)
    (by rw [State.sourceReady, hsrc]; exact hr) (by rw [State.sinkReady, hsnk]; exact hk) hctree hcap hholds.isInternal
    hcodes (by rw [hcwords]; exact hwords)
  have hrun : compressBody (s.start compressMacro) = .ok () ((State.sealed
      { u with codesValid := false, treeValid := false }).relabel id fun _ => compressMacro) := by
    rw [compressBody_start, compressBody, ha, Res.seq_ok, hb, Res.seq_ok, hc, Res.seq_ok, hu]
    rfl
  obtain ⟨n, hpad, hn, hlen⟩ := padding_eq u.cfg.padBit u.snk.bits.length
  have hbits : u.snk.bits ++ padding u.cfg.padBit u.snk.bits.length =
      s.snk.bits ++ fileBits s.cfg.magic tr s.words ++ List.replicate n s.cfg.padBit := by
    rw [hpad, husnk, hucfg, hccfg, hsnk, hcwords]
  have htreeEnd : b.complete.tree = some tr := (tree_congr b b.complete rfl rfl).trans htree
  refine ⟨_, _, _, tr, n, accept_of_ok hi rfl hrun, hanalyze, hbuild, hbvalid, htreeEnd, ?_, hholds.isInternal, hwords,
    (hleaves _).2 (.inl rfl), ((builtLeaves_leavesToBuild (hma.cfg ▸ hcfg)).perm hperm).nodup, fun y => (hleaves y).1,
    hbits, hn, ?_, rfl, ?_, ?_, rfl, rfl, rfl, ⟨rfl, rfl⟩, ?_⟩
  · rw [← hutree]
    exact tree_congr _ _ rfl rfl
  · change (u.snk.bits ++ padding u.cfg.padBit u.snk.bits.length).length % 8 = 0
    rw [hpad, List.length_append, List.length_replicate, hlen]
  · exact husrc.trans (by rw [hsrc])
  · exact hufreq.trans hcfreq
  · exact huerr.trans hcerr

end Sys2Proof.Machine
end

section
/-!
PROOF of O24 (ClosePadsAndClosesTheSinkOnce): what CLOSE does, and what a closed sink refuses.
-/
namespace Sys2Proof.Machine

/-- COMPRESS of words whose counters do not overflow is refused at the magic (R151, R198). -/
theorem compressBody_refused {s : State} (hcfg : s.cfg.wf = true) (hr : s.sourceReady) (hk : s.snk.closed = true)
    (hmax : ∀ x, s.words.count x ≤ s.cfg.cmax) : ∃ u, compressBody s = .stop (.refuse .sinkClosed) u := by
  obtain ⟨a, b, c, -, ha, hb, hc, hma, hwb, hwc, -⟩ := tables_of_words hcfg hr hmax
  obtain ⟨-, hsnk, -⟩ := tables_kept hma hwb hwc
  obtain ⟨u, hu⟩ := wrmagicBody_refused (s := c) (hsnk ▸ hk)
  exact ⟨u, by rw [compressBody, ha, Res.seq_ok, hb, Res.seq_ok, hc, Res.seq_ok, hu, Res.seq_stop]⟩

/-- DECOMPRESS after the header is refused at the first byte of the body or, where it has none, at CLOSE (R152, R198). -/
theorem decompressAfterHeader_refused {s : State} {t : Tree} {out : List (BitVec 8)} {more : List Bool} (hr : s.sourceReady)
    (hk : s.snk.closed = true) (ht : s.tree = some t) (hint : t.isInternal = true) (hd : t.Decodes s.src.rest out more) :
    ∃ u, decompressAfterHeader s = .stop (.refuse .sinkClosed) u := by
  rcases decbodyBody_of_closed hr hk ht hint hd with ⟨u, hu⟩ | ⟨-, v, hv, hclosed⟩
  · exact ⟨u, by rw [decompressAfterHeader, hu, Res.seq_stop]⟩
  · obtain ⟨u, hu⟩ := closeBody_refused hclosed
    exact ⟨u, by rw [decompressAfterHeader, hv, Res.seq_ok, hu]⟩

/-- Settles O24: CLOSE writes the padding; a closed sink refuses the first write or close that a command comes to. -/
theorem closePadsAndClosesTheSinkOnce : Obligations.ClosePadsAndClosesTheSinkOnce := by
  unfold Obligations.ClosePadsAndClosesTheSinkOnce
  refine ⟨fun s hi hk => ?_, fun s hi hk => ⟨?_, ?_, fun hvalid => ?_⟩, fun s hi hk hr =>
    ⟨fun hvalid hcodes heos => ?_, fun tr x out more hvalid ht hint hd => ?_, fun hcfg hmax => ?_,
      fun tr body more out hcfg h hint hsize hd => ?_⟩⟩
  · obtain ⟨n, hpad, hn, hlen⟩ := padding_eq s.cfg.padBit s.snk.bits.length
    refine ⟨_, n, accept_of_ok hi rfl (closeBody_completes (s := s.start noMacro) hk), hn, hlen, ?_⟩
    rw [← hpad]
    conv_rhs => rw [← State.eq_of_isIdle hi]
    rfl
  · obtain ⟨u, hu⟩ := closeBody_refused (s := s.start noMacro) hk
    exact accept_of_refused hi rfl hu
  · obtain ⟨u, hu⟩ := wrmagicBody_refused (s := s.start noMacro) hk
    exact accept_of_refused hi rfl hu
  · obtain ⟨u, hu⟩ := wrhdrBody_refused (s := s.start noMacro) hk
    exact accept_of_refused hi hvalid hu
  · obtain ⟨u, hu⟩ := encbodyBody_refused (s := s.start noMacro) hr hk hcodes heos
    exact accept_of_refused hi hvalid hu
  · have hts : (s.start noMacro).tree = some tr := (tree_congr s (s.start noMacro) rfl rfl).trans ht
    rcases decbodyBody_of_closed (s := s.start noMacro) hr hk hts hint hd with ⟨u, hu⟩ | ⟨hnil, -⟩
    · exact accept_of_refused hi hvalid hu
    · cases hnil
  · obtain ⟨u, hu⟩ := compressBody_refused (s := s.start compressMacro) hcfg hr hk hmax
    exact accept_of_refused hi rfl hu
  · obtain ⟨v, hv, htree, hrest, hrv, hsnk, -⟩ :=
      decompressBody_of_header (s := s.start decompressMacro) hcfg hr h hint hsize
    obtain ⟨u, hu⟩ := decompressAfterHeader_refused hrv (hsnk ▸ hk) htree hint (hrest ▸ hd)
    exact accept_of_refused hi rfl (hv.trans hu)

end Sys2Proof.Machine
end

section
/-!
PROOFS of O2, O3 and O1: the decoder and the encoder are inverses (spec/30_encoding.md R62 to R64, R69 to R71), by one lemma for
each form of an encoding.
-/
namespace Sys2Proof

/-- A command word with nonzero upper bits decodes to itself (R64). -/
theorem decodeCmd_of_upperBitsSet {v : Reg} (h : upperBitsSet v = true) : decodeCmd v = .illegalDefault v := if_pos h

/-- The token of an internal node is its flag bit (R69). -/
theorem decodeToken_node (rest : List Bool) : decodeToken (false :: rest) = .ok (.hdrNode, rest) := rfl

/-- The token of a leaf is its flag bit and any nine bits, the symbol (R69, R70). -/
theorem decodeToken_leaf (sym : Sym) (rest : List Bool) :
    decodeToken (true :: (msbBits 9 sym ++ rest)) = .ok (.hdrLeaf sym, rest) := by
  have hlen : 9 ≤ (msbBits 9 sym ++ rest).length := by simp
  have hsym : BitVec.ofNat 9 (ofMsbBits 0 (msbBits 9 sym)) = sym := by
    rw [ofMsbBits_msbBits, Nat.mod_eq_of_lt sym.isLt, BitVec.ofNat_toNat, BitVec.setWidth_eq]
  simp only [decodeToken, if_pos hlen]
  rw [List.take_left' (msbBits_length 9 sym), List.drop_left' (msbBits_length 9 sym), hsym]

/-- The magic field is the 32 bits of the magic (R71). -/
theorem decodeMagic_field (magic : BitVec 32) (rest : List Bool) :
    decodeMagic magic (msbBits 32 magic ++ rest) = .ok (.fileMagic, rest) := by
  have hlen : 32 ≤ (msbBits 32 magic ++ rest).length := by simp
  have hmagic : BitVec.ofNat 32 (ofMsbBits 0 (msbBits 32 magic)) = magic := by
    rw [ofMsbBits_msbBits, Nat.mod_eq_of_lt magic.isLt, BitVec.ofNat_toNat, BitVec.setWidth_eq]
  rw [decodeMagic, if_pos hlen, List.take_left' (msbBits_length 32 magic), if_pos hmagic,
    List.drop_left' (msbBits_length 32 magic)]

/-- Settles O2: a command row's word is one of sixteen small ones or has nonzero upper bits; a token and the magic field are the
bits that the decoder takes. -/
theorem decodeInvertsEncode : Obligations.DecodeInvertsEncode := by
  unfold Obligations.DecodeInvertsEncode
  intro magic i rest hwf
  cases i with
  | illegalDefault v => exact congrArg (fun i => Except.ok (i, [])) (decodeCmd_of_upperBitsSet hwf)
  | hdrNode => exact decodeToken_node rest
  | hdrLeaf sym => exact decodeToken_leaf sym rest
  | fileMagic => exact decodeMagic_field magic rest
  | analyze | build | gencodes | wrmagic | wrhdr | encbody | close | rdmagic | rdhdr | decbody | compress | decompress
  | clear | illegal0 | illegalE | illegalF => rfl

/-- A command word without upper bits is its opcode (R62). -/
theorem eq_opcode_of_not_upperBitsSet {v : Reg} (h : upperBitsSet v = false) : ∃ op : Fin 16, v = BitVec.ofNat 64 op := by
  have hv : v.toNat / 16 = 0 := by simpa [upperBitsSet] using h
  exact ⟨⟨v.toNat, by omega⟩, by simp⟩

/-- Every command word is the encoding of the well-formed command that it decodes to (R62 to R64). -/
theorem encode_decodeCmd (magic : BitVec 32) (v : Reg) :
    WellFormed (decodeCmd v) = true ∧ encode magic (decodeCmd v) = .cmd v := by
  cases h : upperBitsSet v with
  | true =>
    rw [decodeCmd_of_upperBitsSet h]
    exact ⟨h, rfl⟩
  | false =>
    obtain ⟨op, rfl⟩ := eq_opcode_of_not_upperBitsSet h
    fin_cases op <;> exact ⟨rfl, rfl⟩

/-- A leaf's nine bits are the encoding of the symbol that they decode to (R70). -/
theorem msbBits_symbol (bits : List Bool) (h : 9 ≤ bits.length) :
    msbBits 9 (BitVec.ofNat 9 (ofMsbBits 0 (bits.take 9))) = bits.take 9 := by
  have hlen : (bits.take 9).length = 9 := by simp [h]
  have hbits := msbBits_ofMsbBits (w := 9) (bits.take 9) (by omega)
  rwa [hlen] at hbits

/-- Settles O3: a command word by its upper bits, a bit string by its flag bit and what follows it. -/
theorem everyEncodingHasOneMeaning : Obligations.EveryEncodingHasOneMeaning := by
  unfold Obligations.EveryEncodingHasOneMeaning
  refine ⟨encode_decodeCmd, fun magic bits => ?_⟩
  match bits with
  | [] => exact .inl ⟨rfl, rfl⟩
  | false :: rest => rfl
  | true :: rest =>
    by_cases h : 9 ≤ rest.length
    · simp only [decodeToken, if_pos h, encode, Code.followedBy, msbBits_symbol rest h, List.cons_append,
        List.take_append_drop]
    · rw [show decodeToken (true :: rest) = .error .truncatedSymbol from if_neg h]
      exact .inr ⟨rest, rfl, Nat.lt_of_not_le h, rfl⟩

/-- Settles O1: each table word, read in its format. -/
theorem tableWordsDecode : Obligations.TableWordsDecode := by
  unfold Obligations.TableWordsDecode
  decide

end Sys2Proof
end

section
/-!
PROOFS of O4, O9 and O19 to O22: the host's transactions at the register port (spec/30_encoding.md R60 to R68), by one lemma for
what a step does with each of them and one for what each register shows.
-/
namespace Sys2Proof.Machine

/-! ## Transactions of the port -/

section
variable {s : State} {rest : List HostAction}

/-- A word written to `CMD` is decoded and executed (R60, R62). -/
theorem step_of_command {v : Reg} (h : s.pending = .write cmdAddr v :: rest) :
    step s = exec (decodeCmd v) { s with pending := rest } := by
  simp only [step, fetch, h, if_true]

/-- A write elsewhere reaches the register port (R60, R156). -/
theorem step_of_write {a : BitVec 5} {v : Reg} (ha : a ≠ cmdAddr) (h : s.pending = .write a v :: rest) :
    step s = .next (writeReg a v { s with pending := rest }) := by
  simp only [step, fetch, h, if_neg ha, hostAct]

theorem step_of_read {a : BitVec 5} (h : s.pending = .read a :: rest) :
    step s = .next (readReg a { s with pending := rest }) := by
  simp only [step, fetch, h, hostAct]

/-- What a read shows depends on the CORE, not on what the host does next. -/
theorem regValue_pending (a : BitVec 5) (s : State) (rest : List HostAction) :
    regValue a { s with pending := rest } = regValue a s := rfl

/-- A read of a register that has a value shows it and changes nothing else (R60, R156). -/
theorem step_of_read_value {a : BitVec 5} {v : Reg} (h : s.pending = .read a :: rest) (hv : regValue a s = some v) :
    step s = .next { s with pending := rest, rdata := v } := by
  rw [step_of_read h, readReg, regValue_pending, hv]

/-- A read of a register that has no value takes a draw (R68, U4). -/
theorem step_of_read_free {a : BitVec 5} (h : s.pending = .read a :: rest) (hv : regValue a s = none) :
    step s = .next { s with pending := rest, rdata := freeRead a s.freeCount, freeCount := s.freeCount + 1 } := by
  rw [step_of_read h, readReg, regValue_pending, hv]

end

/-- Settles O4: the write is taken, then its word is executed. -/
theorem stepRunsTheCommandWritten : Obligations.StepRunsTheCommandWritten := by
  unfold Obligations.StepRunsTheCommandWritten
  exact fun s v rest h => step_of_command h

/-- Settles O22: `SEL` is the only register of the port that a write reaches. -/
theorem registerWritesReachOnlyTheSelector : Obligations.RegisterWritesReachOnlyTheSelector := by
  unfold Obligations.RegisterWritesReachOnlyTheSelector
  refine fun s a v rest h => ⟨fun hsel => ?_, fun hsel hcmd => ?_⟩
  · rw [step_of_write (by rw [hsel]; decide) h, writeReg, if_pos hsel]
  · rw [step_of_write hcmd h, writeReg, if_neg hsel]

/-! ## Illegal command words -/

/-- The instructions of the illegal command words (R64). -/
def IsIllegal (i : Instr) : Prop := i = .illegal0 ∨ i = .illegalE ∨ i = .illegalF ∨ ∃ v, i = .illegalDefault v

/-- A word that is none of the thirteen opcodes decodes to an illegal one (R64). -/
theorem isIllegal_decodeCmd {v : Reg} (h : 16 ≤ v.toNat ∨ v.toNat = 0 ∨ v.toNat = 14 ∨ v.toNat = 15) :
    IsIllegal (decodeCmd v) := by
  by_cases hbig : 16 ≤ v.toNat
  · have hupper : upperBitsSet v = true := decide_eq_true (by omega)
    exact .inr (.inr (.inr ⟨v, decodeCmd_of_upperBitsSet hupper⟩))
  · rcases h.resolve_left hbig with h | h | h
    · exact .inl (by rw [BitVec.eq_of_toNat_eq (y := 0#64) h]; rfl)
    · exact .inr (.inl (by rw [BitVec.eq_of_toNat_eq (y := 14#64) h]; rfl))
    · exact .inr (.inr (.inl (by rw [BitVec.eq_of_toNat_eq (y := 15#64) h]; rfl)))

/-- Error entry from a CORE that runs no command leaves `busy` as it is (R176). -/
theorem raiseErr_of_not_busy {s : State} (k : ErrKind) (hb : s.busy = false) :
    raiseErr k s = { s with errCode := some k, phase := .error, done := false,
                            freqValid := false, treeValid := false, codesValid := false } := by
  cases s
  cases hb
  rfl

/-- An illegal instruction raises `IllegalCmd` in `IDLE` and does nothing else (R64, R174). -/
theorem exec_of_isIllegal {i : Instr} {s : State} (hs : s.isIdle) (h : IsIllegal i) :
    exec i s = .next { s with errCode := some .illegalCmd, phase := .error, done := false,
                              freqValid := false, treeValid := false, codesValid := false } := by
  have hexec : exec i s = acceptIllegal s := by
    obtain rfl | rfl | rfl | ⟨v, rfl⟩ := h <;> rfl
  obtain ⟨hb, hp⟩ := hs
  rw [hexec, ← raiseErr_of_not_busy _ hb]
  simp [acceptIllegal, hb, hp]

/-- Settles O9: the word decodes to an illegal instruction, which is accepted only to raise its error. -/
theorem illegalWordsRaiseIllegalCmd : Obligations.IllegalWordsRaiseIllegalCmd := by
  unfold Obligations.IllegalWordsRaiseIllegalCmd
  refine ⟨fun s v rest hs h hv => ?_, fun s i hs hi => exec_of_isIllegal hs hi⟩
  rw [step_of_command h]
  exact exec_of_isIllegal (s := { s with pending := rest }) hs (isIllegal_decodeCmd hv)

/-! ## STATUS and the registers that are not windows -/

/-- The origin's bit is the origin `PARSED` (R13). -/
theorem Origin.bit_eq (o : Origin) : o.bit = decide (o = .parsed) := by cases o <;> rfl

/-- A flag of `STATUS` has no bit above its own. -/
theorem flag_getLsbD_of_lt (b : Bool) {k i : Nat} (h : k < i) :
    ((BitVec.ofBool b).setWidth 64 <<< k).getLsbD i = false := by
  have hne : i - k ≠ 0 := by omega
  simp [BitVec.getLsbD_ofBool, hne]

/-- Above its flags `STATUS` holds the phase (R65). -/
theorem statusWord_getLsbD_of_le {s : State} {i : Nat} (h : 8 ≤ i) (hi : i < 64) :
    s.statusWord.getLsbD i = s.phase.code.getLsbD (i - 8) := by
  have hbusy := flag_getLsbD_of_lt s.busy (k := 0) (i := i) (by omega)
  rw [BitVec.shiftLeft_zero] at hbusy
  have hphase : (s.phase.code.setWidth 64 <<< 8).getLsbD i = s.phase.code.getLsbD (i - 8) := by
    simp [hi, Nat.not_lt.2 h]
  simp (disch := omega) only [State.statusWord, BitVec.getLsbD_or, hbusy, flag_getLsbD_of_lt, hphase, Bool.false_or]

/-- Bits [11:8] of `STATUS` are the code of the phase (R65). -/
theorem statusWord_phase (s : State) : s.statusWord.extractLsb' 8 4 = s.phase.code := by
  refine BitVec.eq_of_getLsbD_eq fun i hi => ?_
  rw [BitVec.getLsbD_extractLsb', statusWord_getLsbD_of_le (by omega) (by omega), Nat.add_sub_cancel_left, decide_eq_true hi,
    Bool.true_and]

/-- Bits [63:12] of `STATUS` are 0 (R65). -/
theorem statusWord_upper (s : State) : s.statusWord.extractLsb' 12 52 = 0#52 := by
  refine BitVec.eq_of_getLsbD_eq fun i hi => ?_
  rw [BitVec.getLsbD_extractLsb', statusWord_getLsbD_of_le (by omega) (by omega), BitVec.getLsbD_of_ge _ _ (by omega),
    Bool.and_false, BitVec.getLsbD_zero]

/-- The reserved addresses read 0 (R61). -/
theorem regValue_reserved (s : State) {a : BitVec 5} (h : 14 ≤ a.toNat) : regValue a s = some 0#64 := by
  have ha : a.toNat < 32 := a.isLt
  unfold regValue
  generalize a.toNat = k at h ha
  interval_cases k <;> rfl

/-- Settles O19: each flag stands at its place below the phase, and each plain register has a value in every state. -/
theorem statusAndPlainRegistersRead : Obligations.StatusAndPlainRegistersRead := by
  unfold Obligations.StatusAndPlainRegistersRead
  refine ⟨fun s => ?_, fun s a rest h => ⟨?_, ?_, ?_, ?_, ?_, fun ha => step_of_read_value h (regValue_reserved s ha)⟩⟩
  · have hflags : s.statusWord.getLsbD 0 = s.busy ∧ s.statusWord.getLsbD 1 = s.done ∧ s.statusWord.getLsbD 2 = s.err ∧
        s.statusWord.getLsbD 3 = s.freqValid ∧ s.statusWord.getLsbD 4 = s.treeValid ∧
        s.statusWord.getLsbD 5 = (s.treeValid && decide (s.treeOrigin = .parsed)) ∧
        s.statusWord.getLsbD 6 = s.codesValid ∧ s.statusWord.getLsbD 7 = false := by
      simp [State.statusWord, Origin.bit_eq, Bool.and_comm]
    simpa only [statusWord_phase, statusWord_upper, and_true] using hflags
  all_goals
    rintro rfl
    exact step_of_read_value h rfl

/-! ## The windows -/

/-- Fields side by side: the upper one counts in units of the lower one's size. -/
theorem toNat_append_eq {m n : Nat} (x : BitVec m) (y : BitVec n) : (x ++ y).toNat = x.toNat * 2 ^ n + y.toNat := by
  rw [BitVec.toNat_append, ← Nat.shiftLeft_add_eq_or_of_lt y.isLt, Nat.shiftLeft_eq]

/-- The fields of `TREE` (R61). -/
theorem treeWord_toNat (s : State) : s.treeWord.toNat = s.root.toNat + 1024 * s.nodeCount.toNat := by
  rw [State.treeWord, BitVec.toNat_setWidth_of_le (by decide), toNat_append_eq]
  omega

/-- The fields of `NODE_INFO` (R61). -/
theorem infoWord_toNat (n : Node) :
    n.infoWord.toNat = n.leaf.toNat + 2 * n.sym.toNat + 2 ^ 10 * n.left.toNat + 2 ^ 20 * n.right.toNat := by
  rw [Node.infoWord, BitVec.toNat_setWidth_of_le (by decide), toNat_append_eq, toNat_append_eq, toNat_append_eq,
    BitVec.toNat_ofBool]
  omega

/-- Bit `b` of quarter `j` of a code is its bit `64 * j + b` (R67). -/
theorem codeQuarter_getLsbD (s : State) (j : Nat) {b : Nat} (hb : b < 64) :
    (s.codeQuarter j).getLsbD b = (s.codeBitsAt s.sel.toNat).getLsbD (64 * j + b) := by
  rw [State.codeQuarter, BitVec.getLsbD_extractLsb', decide_eq_true hb, Bool.true_and]

/-- The four windows of the selected code (R67). -/
theorem regValue_codeQuarter {s : State} {a : BitVec 5} {j : Nat} (hj : j < 4) (ha : a.toNat = 9 + j) :
    regValue a s = if s.codeWindow then some (s.codeQuarter j) else none := by
  unfold regValue
  rw [ha]
  interval_cases j <;> rfl

/-- A window of the code table has no value outside its conditions (R68). -/
theorem regValue_codeTable {s : State} {a : BitVec 5} (ha : 8 ≤ a.toNat ∧ a.toNat ≤ 12) (hw : ¬s.codeWindow = true) :
    regValue a s = none := by
  by_cases h8 : a.toNat = 8
  · obtain rfl : a = 8#5 := BitVec.eq_of_toNat_eq h8
    exact if_neg hw
  · rw [regValue_codeQuarter (j := a.toNat - 9) (by omega) (by omega), if_neg hw]

/-- The condition that the windows of each table have (R67, R68). -/
theorem window_defined {busy valid : Bool} {p : Prop} [Decidable p] (hb : busy = false) (hv : valid = true) (hp : p) :
    (!busy && valid && decide p) = true := by simp [hb, hv, hp]

/-- Where one of the conditions fails the window has no value. -/
theorem window_undefined {busy valid : Bool} {p : Prop} [Decidable p] (h : busy = true ∨ valid = false ∨ ¬p) :
    ¬(!busy && valid && decide p) = true := by
  rcases h with h | h | h <;> simp [h]

/-- Settles O20: under its condition each window has the value of its table's entry, whose fields are the sums above. -/
theorem definedWindowsShowTheTables : Obligations.DefinedWindowsShowTheTables := by
  unfold Obligations.DefinedWindowsShowTheTables
  intro s a rest h hb
  refine ⟨?_, ?_, ?_, ?_, ?_, fun j hj ha hv hsel => ?_⟩
  · rintro rfl hv
    exact ⟨_, step_of_read_value h (if_pos (by simp [hb, hv])), treeWord_toNat s⟩
  · rintro rfl hv hsel
    exact step_of_read_value h (if_pos (window_defined hb hv hsel))
  · rintro rfl hv hsel
    exact ⟨_, step_of_read_value h (if_pos (window_defined hb hv hsel)), infoWord_toNat _⟩
  · rintro rfl hv hsel
    exact step_of_read_value h (if_pos (window_defined hb hv hsel))
  · rintro rfl hv hsel
    exact step_of_read_value h (if_pos (window_defined hb hv hsel))
  · have hvalue : regValue a s = some (s.codeQuarter j) :=
      (regValue_codeQuarter hj ha).trans (if_pos (window_defined hb hv hsel))
    exact ⟨_, step_of_read_value h hvalue, fun b hlt => codeQuarter_getLsbD s j hlt⟩

/-- Settles O21: outside its condition a window has no value. -/
theorem undefinedWindowsGiveAFreeValue : Obligations.UndefinedWindowsGiveAFreeValue := by
  unfold Obligations.UndefinedWindowsGiveAFreeValue
  intro s a rest h hundef
  refine step_of_read_free h ?_
  rcases hundef with ⟨rfl, hw⟩ | ⟨rfl, hw⟩ | ⟨rfl | rfl, hw⟩ | ⟨ha, hw⟩
  · exact if_neg (by rcases hw with hw | hw <;> simp [hw])
  · exact if_neg (window_undefined (hw.imp_right (.imp_right Nat.not_le.2)))
  · exact if_neg (window_undefined (hw.imp_right (.imp_right Nat.not_lt.2)))
  · exact if_neg (window_undefined (hw.imp_right (.imp_right Nat.not_lt.2)))
  · exact regValue_codeTable ha (window_undefined (hw.imp_right (.imp_right Nat.not_le.2)))

end Sys2Proof.Machine
end

section
/-!
PROOFS of O54 and O55: COMPRESS and DECOMPRESS are their commands issued one after another (spec/47_sequencer_commands.md R151,
R152).

A body inside one of the two and the same command issued by the host start in states that differ in the phase, which every body
sets first, and in the register `macroCmd`, which none reads (`IsPart`). So from the state where a body ends, the rest of the two
does what the rest of the commands do (`State.RunsAs`), and where it stops the CORE is not idle (`Res.Passes`), so that the host
stops too.
-/
namespace Sys2Proof.Machine

/-! ## Where a part of a command goes on and where it stalls -/

/-- The sequencer's registers while a command runs (R153). -/
structure State.Active (s : State) : Prop where
  busy : s.busy = true
  done : s.done = false

theorem State.Active.of_control {s t : State} (h : s.Active) (ht : t.control = s.control) : t.Active :=
  ⟨(congrArg State.busy ht).trans h.busy, (congrArg State.done ht).trans h.done⟩

theorem start_active (s : State) (m : BitVec 2) : (s.start m).Active := ⟨rfl, rfl⟩

/-- Where a part of a command goes on `Q` holds, and where it stalls the CORE is not idle. -/
structure Res.Passes (Q : State → Prop) (r : Res Unit) : Prop where
  goesOn : ∀ t, r = .ok () t → Q t
  stalls : ∀ t, r = .stop .stall t → t.phase ≠ .idle

theorem Res.Passes.ok {Q : State → Prop} {t : State} (h : Q t) : (Res.ok () t).Passes Q where
  goesOn u hu := by
    injection hu with _ hu
    exact hu ▸ h
  stalls u hu := by cases hu

theorem Res.Passes.raise (Q : State → Prop) (k : ErrKind) (t : State) : (Res.stop (.raise k) t).Passes Q where
  goesOn u hu := by cases hu
  stalls u hu := by cases hu

theorem Res.Passes.seq {P Q : State → Prop} {r : Res Unit} {c : State → Res Unit} (h : r.Passes P)
    (hc : ∀ s, P s → (c s).Passes Q) : (r.seq c).Passes Q where
  goesOn t ht := by
    obtain ⟨s, hs, ht⟩ := Res.seq_eq_ok.1 ht
    exact (hc s (h.goesOn s hs)).goesOn t ht
  stalls t ht := by
    rcases Res.seq_eq_stop.1 ht with ht | ⟨s, hs, ht⟩
    · exact h.stalls t ht
    · exact (hc s (h.goesOn s hs)).stalls t ht

theorem Res.Passes.mono {P Q : State → Prop} {r : Res Unit} (h : r.Passes P) (hpq : ∀ s, P s → Q s) : r.Passes Q :=
  ⟨fun t ht => hpq t (h.goesOn t ht), h.stalls⟩

/-- What runs inside a phase keeps the sequencer's registers. -/
theorem IsPart.passes {c : State → Res Unit} (h : IsPart State.control c) {s : State} (hi : s.phase ≠ .idle) :
    (c s).Passes fun t => t.control = s.control where
  goesOn t ht := by
    have hkept := (h id id s).kept
    rw [ht] at hkept
    exact hkept.1
  stalls t ht := by
    have hkept := (h id id s).kept
    rw [ht] at hkept
    rw [phase_of_control hkept.1]
    exact hi

/-! ## What each body leaves for the next command -/

/-- ANALYZE ends with valid counts, which BUILD requires (R83, R154). -/
theorem analyzeBody_passes {s : State} (h : s.Active) :
    (analyzeBody s).Passes fun t => t.Active ∧ t.freqValid = true := by
  have hstart : (analyzeStart s).Active := { h with }
  exact (((analyzeLoop_part _).seq srcReset_part).passes (s := analyzeStart s) nofun).seq fun t ht =>
    .ok ⟨{ hstart.of_control ht with }, rfl⟩

/-- BUILD ends with a valid built tree, which GENCODES requires (R92, R154). -/
theorem buildBody_passes {s : State} (h : s.Active) :
    (buildBody s).Passes fun t => t.Active ∧ t.treeValid = true ∧ t.treeOrigin = .built := by
  have hstart : (buildStart s).Active := { h with }
  exact (((loadLeaves_part 0 _).seq buildTree_part).passes (s := buildStart s) nofun).seq fun t ht =>
    .ok ⟨{ hstart.of_control ht with }, rfl, rfl⟩

/-- GENCODES keeps the tree and ends with valid codes, which WRHDR and ENCBODY require (R107, R154). -/
theorem gencodesBody_passes {s : State} (h : s.Active) (hv : s.treeValid = true) :
    (gencodesBody s).Passes fun t => t.Active ∧ t.treeValid = true ∧ t.codesValid = true := by
  have hstart : (gencodesStart s).Active := { h with }
  exact ((walk_part _ _ _ _).passes (s := gencodesStart s) nofun).seq fun t ht =>
    .ok ⟨{ hstart.of_control ht with }, (congrArg State.treeValid ht).trans hv, rfl⟩

theorem wrmagicBody_passes {s : State} (h : s.Active) (hv : s.treeValid = true) (hc : s.codesValid = true) :
    (wrmagicBody s).Passes fun t => t.Active ∧ t.treeValid = true ∧ t.codesValid = true :=
  have hstart : State.Active { s with phase := .wrmagic } := { h with }
  ((sinkWrite_part 32 _).passes (s := { s with phase := .wrmagic }) nofun).mono fun _ ht =>
    ⟨hstart.of_control ht, (congrArg State.treeValid ht).trans hv, (congrArg State.codesValid ht).trans hc⟩

theorem wrhdrBody_passes {s : State} (h : s.Active) (hc : s.codesValid = true) :
    (wrhdrBody s).Passes fun t => t.Active ∧ t.codesValid = true :=
  have hstart : (wrhdrStart s).Active := { h with }
  ((writeTokens_part _).passes (s := wrhdrStart s) nofun).mono fun _ ht =>
    ⟨hstart.of_control ht, (congrArg State.codesValid ht).trans hc⟩

theorem encbodyBody_passes {s : State} (h : s.Active) : (encbodyBody s).Passes State.Active :=
  have hstart : State.Active { s with phase := .encbody } := { h with }
  (((encodeLoop_part _).seq (emitCode_part 256)).passes (s := { s with phase := .encbody }) nofun).seq fun _ ht =>
    .ok { hstart.of_control ht with }

theorem closeBody_passes (s : State) : (closeBody s).Passes fun _ => True :=
  (sinkClose_part.passes (s := { s with phase := .close }) nofun).mono fun _ _ => trivial

theorem rdmagicBody_passes {s : State} (h : s.Active) : (rdmagicBody s).Passes State.Active :=
  have hstart : State.Active { s with phase := .rdmagic } := { h with }
  (readMagic_part.passes (s := { s with phase := .rdmagic }) nofun).mono fun _ ht => hstart.of_control ht

/-- A complete header is a valid tree, which DECBODY requires (R122, R154). -/
theorem rdhdrEnd_passes {s : State} (h : s.Active) : (rdhdrEnd s).Passes fun t => t.Active ∧ t.treeValid = true := by
  unfold rdhdrEnd
  split
  · exact .raise _ _ _
  · exact .ok ⟨{ h with }, rfl⟩

theorem rdhdrBody_passes {s : State} (h : s.Active) :
    (rdhdrBody s).Passes fun t => t.Active ∧ t.treeValid = true :=
  have hstart : (rdhdrStart s).Active := { h with }
  ((readTokens_part _).passes (s := rdhdrStart s) nofun).seq fun _ ht => rdhdrEnd_passes (hstart.of_control ht)

theorem decbodyBody_passes {s : State} (h : s.Active) : (decbodyBody s).Passes State.Active :=
  have hstart : State.Active { s with phase := .decbody, cursor := s.root } := { h with }
  ((decodeLoop_part _).passes (s := { s with phase := .decbody, cursor := s.root }) nofun).seq fun _ ht =>
    .ok { hstart.of_control ht with }

/-! ## The rest of COMPRESS or DECOMPRESS and the rest of its commands -/

/-- Outcomes that differ in the register `macroCmd` alone. -/
def SameButMacro (o o' : Host.Outcome State Fault Refusal) : Prop :=
  mapNext State.forgetMacro o = mapNext State.forgetMacro o'

/-- The part `c` to the end of the running command. -/
def finish (c : State → Res Unit) (s : State) : Host.Outcome State Fault Refusal :=
  settle ((c s).seq fun t => .ok () t.complete)

/-- From `s`, in COMPRESS or DECOMPRESS, the rest `c` of it does what the host's commands `is` do after a command that ends in
`s`. -/
def State.RunsAs (is : List Instr) (c : State → Res Unit) (s : State) : Prop :=
  SameButMacro (finish c s) (runCommands is s.forgetMacro.complete)

/-- The part `c` does not see the register `macroCmd`. -/
theorem IsPart.forgetMacro {α β : Type} {v : State → β} {c : State → Res α} (h : IsPart v c) (s : State) :
    c s.forgetMacro = (c s).map State.forgetMacro :=
  (h id (fun _ => noMacro) s).relabelled

/-- `i` is a command with the given body, which sets its phase first and requires what `pre` says of the tables. -/
structure IsCommand (i : Instr) (pre : State → Bool) (body : State → Res Unit) : Prop where
  exec : ∀ s, exec i s = accept pre noMacro body s
  part : IsPart State.cfg body
  phase : ∀ s p, body { s with phase := p } = body s
  pre : ∀ s : State, pre s.forgetMacro.complete = pre s

section
variable {i : Instr} {pre : State → Bool} {body : State → Res Unit} {s : State}

/-- A command issued where the one before it ended is its body, but for the register `macroCmd` (R153). -/
theorem IsCommand.exec_complete (h : IsCommand i pre body) (hs : s.Active) (hp : pre s = true) :
    Machine.exec i s.forgetMacro.complete =
      settle (((body s).map State.forgetMacro).seq fun t => .ok () t.complete) := by
  have hstart : s.forgetMacro.complete.start noMacro = { s.forgetMacro with phase := .idle } := by
    obtain ⟨hb, hd⟩ := hs
    cases s
    cases hb
    cases hd
    rfl
  rw [h.exec, accept_of_ready ⟨rfl, rfl⟩ ((h.pre s).trans hp), hstart, h.phase, h.part.forgetMacro]

/-- One command more: where its body goes on, the rest is to run as the rest of the commands. -/
theorem IsCommand.runsAs_seq (h : IsCommand i pre body) (hs : s.Active) (hp : pre s = true) {is : List Instr}
    {rest : State → Res Unit} (hbody : (body s).Passes (State.RunsAs is rest)) :
    s.RunsAs (i :: is) fun t => (body t).seq rest := by
  rw [State.RunsAs, runCommands_cons, h.exec_complete hs hp, finish]
  cases hr : body s with
  | ok _ t => exact hbody.goesOn t hr
  | stop q t =>
    cases q with
    | stall =>
      have hstop : thenCommands is (.next t.forgetMacro) = .next t.forgetMacro :=
        thenCommands_of_not_idle is (hbody.stalls t hr)
      exact (congrArg (mapNext State.forgetMacro) hstop).symm
    | raise k | fault f | refuse q => rfl

/-- The last command. -/
theorem IsCommand.runsAs (h : IsCommand i pre body) (hs : s.Active) (hp : pre s = true)
    (hbody : (body s).Passes fun _ => True) : s.RunsAs [i] body := by
  have hend : (body s).Passes (State.RunsAs [] (.ok ())) := hbody.mono fun t _ => rfl
  have hseq : (fun t => (body t).seq (.ok ())) = body := by
    funext t
    cases body t <;> rfl
  exact hseq ▸ h.runsAs_seq hs hp hend

end

theorem analyze_isCommand : IsCommand .analyze noPrerequisite analyzeBody :=
  ⟨fun _ => rfl, analyzeBody_part, fun _ _ => rfl, fun _ => rfl⟩
theorem build_isCommand : IsCommand .build buildReady buildBody :=
  ⟨fun _ => rfl, buildBody_part, fun _ _ => rfl, fun _ => rfl⟩
theorem gencodes_isCommand : IsCommand .gencodes gencodesReady gencodesBody :=
  ⟨fun _ => rfl, gencodesBody_part, fun _ _ => rfl, fun _ => rfl⟩
theorem wrmagic_isCommand : IsCommand .wrmagic noPrerequisite wrmagicBody :=
  ⟨fun _ => rfl, wrmagicBody_part, fun _ _ => rfl, fun _ => rfl⟩
theorem wrhdr_isCommand : IsCommand .wrhdr treeReady wrhdrBody :=
  ⟨fun _ => rfl, wrhdrBody_part, fun _ _ => rfl, fun _ => rfl⟩
theorem encbody_isCommand : IsCommand .encbody encbodyReady encbodyBody :=
  ⟨fun _ => rfl, encbodyBody_part, fun _ _ => rfl, fun _ => rfl⟩
theorem close_isCommand : IsCommand .close noPrerequisite closeBody :=
  ⟨fun _ => rfl, closeBody_part, fun _ _ => rfl, fun _ => rfl⟩
theorem rdmagic_isCommand : IsCommand .rdmagic noPrerequisite rdmagicBody :=
  ⟨fun _ => rfl, rdmagicBody_part, fun _ _ => rfl, fun _ => rfl⟩
theorem rdhdr_isCommand : IsCommand .rdhdr noPrerequisite rdhdrBody :=
  ⟨fun _ => rfl, rdhdrBody_part, fun _ _ => rfl, fun _ => rfl⟩
theorem decbody_isCommand : IsCommand .decbody treeReady decbodyBody :=
  ⟨fun _ => rfl, decbodyBody_part, fun _ _ => rfl, fun _ => rfl⟩

section
variable {s : State}

theorem closeBody_runsAs (h : s.Active) : s.RunsAs [.close] closeBody :=
  close_isCommand.runsAs h rfl (closeBody_passes s)

theorem compressAfterHeader_runsAs (h : s.Active) (hc : s.codesValid = true) :
    s.RunsAs [.encbody, .close] compressAfterHeader :=
  encbody_isCommand.runsAs_seq h hc <| (encbodyBody_passes h).mono fun _ => closeBody_runsAs

theorem compressAfterMagic_runsAs (h : s.Active) (hv : s.treeValid = true) (hc : s.codesValid = true) :
    s.RunsAs [.wrhdr, .encbody, .close] compressAfterMagic :=
  wrhdr_isCommand.runsAs_seq h hv <| (wrhdrBody_passes h hc).mono fun _ ⟨ht, hct⟩ => compressAfterHeader_runsAs ht hct

/-- COMPRESS: each body leaves what the next command requires (R151, R154). -/
theorem compressBody_runsAs (h : s.Active) :
    s.RunsAs [.analyze, .build, .gencodes, .wrmagic, .wrhdr, .encbody, .close] compressBody := by
  have hassoc : compressBody = fun s => (analyzeBody s).seq fun s => (buildBody s).seq fun s => (gencodesBody s).seq fun s =>
      (wrmagicBody s).seq compressAfterMagic := by
    funext s
    rw [compressBody, Res.seq_assoc, Res.seq_assoc]
  rw [hassoc]
  refine analyze_isCommand.runsAs_seq h rfl <| (analyzeBody_passes h).mono fun a ⟨ha, hf⟩ => ?_
  refine build_isCommand.runsAs_seq ha hf <| (buildBody_passes ha).mono fun b ⟨hb, hv, ho⟩ => ?_
  have hready : gencodesReady b = true := by simp [gencodesReady, hv, ho]
  refine gencodes_isCommand.runsAs_seq hb hready <| (gencodesBody_passes hb hv).mono fun c ⟨hc, hv, hcodes⟩ => ?_
  exact wrmagic_isCommand.runsAs_seq hc rfl <| (wrmagicBody_passes hc hv hcodes).mono fun _ ⟨hd, hv, hcodes⟩ =>
    compressAfterMagic_runsAs hd hv hcodes

theorem decompressAfterHeader_runsAs (h : s.Active) (hv : s.treeValid = true) :
    s.RunsAs [.decbody, .close] decompressAfterHeader :=
  decbody_isCommand.runsAs_seq h hv <| (decbodyBody_passes h).mono fun _ => closeBody_runsAs

theorem decompressAfterMagic_runsAs (h : s.Active) : s.RunsAs [.rdhdr, .decbody, .close] decompressAfterMagic :=
  rdhdr_isCommand.runsAs_seq h rfl <| (rdhdrBody_passes h).mono fun _ ⟨ht, hv⟩ => decompressAfterHeader_runsAs ht hv

/-- DECOMPRESS (R152). -/
theorem decompressBody_runsAs (h : s.Active) : s.RunsAs [.rdmagic, .rdhdr, .decbody, .close] decompressBody :=
  rdmagic_isCommand.runsAs_seq h rfl <| (rdmagicBody_passes h).mono fun _ => decompressAfterMagic_runsAs

end

/-- The first command of COMPRESS or DECOMPRESS finds the same start, whichever way it is issued. -/
theorem IsCommand.runCommands_start {i : Instr} {body : State → Res Unit} {s : State} (h : IsCommand i noPrerequisite body)
    (hs : s.isIdle) (m : BitVec 2) (is : List Instr) :
    runCommands (i :: is) (s.start m).forgetMacro.complete = runCommands (i :: is) s := by
  have hstart : (s.start m).forgetMacro.complete.start noMacro = s.start noMacro := by
    obtain ⟨-, hph⟩ := hs
    cases s
    cases hph
    rfl
  rw [runCommands_cons, runCommands_cons, h.exec, h.exec, accept_of_ready ⟨rfl, rfl⟩ rfl, accept_of_ready hs rfl, hstart]

/-- Settles O54: from its start COMPRESS runs as its seven commands. -/
theorem compressIsItsExpansion : Obligations.CompressIsItsExpansion := by
  unfold Obligations.CompressIsItsExpansion
  intro s _ hi
  have hrun := compressBody_runsAs (start_active s compressMacro)
  rw [State.RunsAs, analyze_isCommand.runCommands_start hi] at hrun
  exact (congrArg _ (accept_of_ready hi rfl)).trans hrun

/-- Settles O55: from its start DECOMPRESS runs as its four commands. -/
theorem decompressIsItsExpansion : Obligations.DecompressIsItsExpansion := by
  unfold Obligations.DecompressIsItsExpansion
  intro s _ hi
  have hrun := decompressBody_runsAs (start_active s decompressMacro)
  rw [State.RunsAs, rdmagic_isCommand.runCommands_start hi] at hrun
  exact (congrArg _ (accept_of_ready hi rfl)).trans hrun

end Sys2Proof.Machine
end

section
/-!
PROOF of O45 (HeaderTokensComplete), with the meaning of each token in each phase (spec/30_encoding.md R69 to R71). A header token
taken from the source is what RDHDR reads there, so that the facts about `readToken` serve it too.
-/
namespace Sys2Proof.Machine

/-! ## The tokens in their phases -/

section
variable {s : State}

theorem exec_hdrNode_of_rdhdr (h : s.phase = .rdhdr) : exec .hdrNode s = settle ((takeNode s).seq afterReadToken) := by
  simp only [exec, execHdrNode, h]

theorem exec_hdrNode_of_wrhdr (h : s.phase = .wrhdr) :
    exec .hdrNode s = settle ((writeNodeToken s).seq afterWriteToken) := by
  simp only [exec, execHdrNode, h]

theorem exec_hdrLeaf_of_rdhdr (sym : Sym) (h : s.phase = .rdhdr) :
    exec (.hdrLeaf sym) s = settle ((takeLeaf sym s).seq afterReadToken) := by
  simp only [exec, execHdrLeaf, h]

theorem exec_hdrLeaf_of_wrhdr (sym : Sym) (h : s.phase = .wrhdr) :
    exec (.hdrLeaf sym) s = settle ((writeLeafToken sym s).seq afterWriteToken) := by
  simp only [exec, execHdrLeaf, h]

theorem exec_fileMagic_of_rdmagic (h : s.phase = .rdmagic) :
    exec .fileMagic s = settle ((readMagic s).seq (endPhase decompressMacro decompressAfterMagic)) := by
  simp only [exec, execFileMagic, h]

theorem exec_fileMagic_of_wrmagic (h : s.phase = .wrmagic) :
    exec .fileMagic s = settle ((writeMagic s).seq (endPhase compressMacro compressAfterMagic)) := by
  simp only [exec, execFileMagic, h]

/-- The header goes on while a node is open. -/
theorem afterReadToken_of_open (h : s.work.stk ≠ []) : afterReadToken s = .ok () s := if_neg h

/-- The header goes on while a subtree is still to be written. -/
theorem afterWriteToken_of_pending (h : s.work.stk ≠ []) : afterWriteToken s = .ok () s := if_neg h

/-! ## Tokens read -/

/-- Where the flag bit is 0 the token `HDR.NODE` is the one that RDHDR reads (R69). -/
theorem takeNode_eq_readToken {more : List Bool} (hr : s.sourceReady) (h : s.src.rest = false :: more) :
    takeNode s = readToken s := by
  obtain ⟨v, hv, hread⟩ := srcRead_of_bit hr h
  rw [takeNode, readToken, hread, Res.bind_ok, Res.bind_ok]
  exact (if_neg (by rw [hv]; exact Bool.false_ne_true)).symm

/-- Where the flag bit is 1 and a symbol follows, its token `HDR.LEAF` is the one that RDHDR reads (R69, R70). -/
theorem takeLeaf_eq_readToken {sym : Sym} {more : List Bool} (hr : s.sourceReady)
    (h : s.src.rest = true :: (msbBits 9 sym ++ more)) : takeLeaf sym s = readToken s := by
  obtain ⟨v, hv, hread⟩ := srcRead_of_bit hr h
  have hrest : (s.advance 1 v).src.rest = msbBits 9 sym ++ more := State.advance_rest (bits := [_]) v rfl h
  rw [takeLeaf, readToken, hread, Res.bind_ok, Res.bind_ok]
  dsimp only
  rw [if_pos hv, readLeafRest, openLeaf]
  rcases alloc_cases (leafNode 0#9 0#40) (s.advance 1 v) with ⟨-, hfull⟩ | ⟨hroom, -⟩
  · rw [hfull, Res.bind_stop, Res.bind_stop]
  · have hsym := srcRead_of_field (s := (s.advance 1 v).grow (leafNode 0#9 0#40)) hr (by decide) hrest
    rw [alloc_of_room _ hroom, Res.bind_ok, Res.bind_ok, hsym, Res.bind_ok, Res.bind_ok]
    dsimp only
    rw [BitVec.setWidth_setWidth_of_le _ (by decide), BitVec.setWidth_eq]

/-- The other entries are as they were when a leaf has been read. -/
theorem leafRead_nodeAt_of_ne (v : BitVec 32) (sym : Sym) {j : Idx} (h : j ≠ s.nodeCount) :
    (s.leafRead v sym).nodeAt j = s.nodeAt j :=
  (nodeAt_setNode_of_ne _ _ h.symm).trans ((s.advance 1 v).grow_nodeAt_old _ h)

/-- A leaf token takes its ten bits (R69) and changes the arena, the registers of a read and the model's record. -/
theorem leafRead_frame (v : BitVec 32) (sym : Sym) :
    s.leafRead v sym =
      { s with node := (s.leafRead v sym).node, nodeCount := s.nodeCount + 1#10
               src := { s.src with pos := s.src.pos + 10 }
               work := { s.work with w := sym.setWidth 32, eos := false }
               trace := (s.leafRead v sym).trace } := by
  simp only [State.leafRead, State.advance, State.grow, State.setNode, Nat.add_assoc]

/-- A subtree that is complete below an open node becomes its left child (R123). -/
theorem attach_left (i p : Idx) (stk : List StkEntry) (s : State) :
    attach i ({ idx := p, leftDone := false } :: stk) s =
      (s.setLeft p i).setStk ({ idx := p, leftDone := true } :: stk) := rfl

/-! ## Tokens written -/

theorem writeNodeToken_of_ready (h : s.sinkReady) {e : StkEntry} {stk : List StkEntry} (hs : s.work.stk = e :: stk) :
    writeNodeToken s = .ok () ((s.append 1 0#32).setStk
      (pendingSubtree (s.nodeAt e.idx).left :: pendingSubtree (s.nodeAt e.idx).right :: stk)) := by
  simp only [writeNodeToken, hs]
  rw [sinkWrite_of_ready 1 0#32 h, Res.seq_ok]
  rfl

theorem writeLeafToken_of_ready (h : s.sinkReady) {e : StkEntry} {stk : List StkEntry} (hs : s.work.stk = e :: stk)
    (sym : Sym) :
    writeLeafToken sym s = .ok () (((s.append 1 1#32).append 9 (sym.setWidth 32)).setStk stk) := by
  simp only [writeLeafToken, hs]
  rw [sinkWrite_of_ready 1 1#32 h, Res.seq_ok, sinkWrite_of_ready (s := s.append 1 1#32) 9 _ h, Res.seq_ok]

end

/-- Settles O45: a token read opens an entry or attaches a leaf to the innermost open node, a token written appends its bits; with
the stack not empty the header goes on. -/
theorem headerTokensComplete : Obligations.HeaderTokensComplete := by
  unfold Obligations.HeaderTokensComplete
  refine ⟨fun s bits hp hr hrest hroom hcap => ?_, fun s e stk hp hk hs => ?_,
    fun s sym bits p stk hp hr hrest hroom hcap hs hne => ?_, fun s sym e e' stk hp hk hs => ?_⟩
  · obtain ⟨v, hread, -⟩ := readToken_node hr (Nat.ne_of_lt hroom) hrest
    have hexec : exec .hdrNode s = .next (s.opened v) := by
      rw [exec_hdrNode_of_rdhdr hp, takeNode_eq_readToken hr hrest, hread, Res.seq_ok,
        afterReadToken_of_open (List.cons_ne_nil _ _), settle_ok]
    exact ⟨_, hexec, (s.advance 1 v).grow_nodeAt_new _, nodeCount_succ hcap hroom,
      fun i hi => (s.advance 1 v).grow_nodeAt_old _ hi, rfl, rfl⟩
  · rw [exec_hdrNode_of_wrhdr hp, writeNodeToken_of_ready hk hs, Res.seq_ok, afterWriteToken_of_pending (List.cons_ne_nil _ _)]
    rfl
  · obtain ⟨v, hread⟩ := readToken_leaf hr (Nat.ne_of_lt hroom) hrest
    rw [hs, attach_left] at hread
    have hexec : exec (.hdrLeaf sym) s =
        .next (((s.leafRead v sym).setLeft p s.nodeCount).setStk ({ idx := p, leftDone := true } :: stk)) := by
      rw [exec_hdrLeaf_of_rdhdr sym hp, takeLeaf_eq_readToken hr hrest, hread, Res.seq_ok,
        afterReadToken_of_open (List.cons_ne_nil _ _), settle_ok]
    refine ⟨_, hexec, ?_, ?_, nodeCount_succ (s := s) hcap hroom, fun i hi hip => ?_, rfl, ?_⟩
    · exact (nodeAt_setNode_of_ne _ _ hne).trans (nodeAt_setNode_self _ _ _)
    · refine (nodeAt_setNode_self _ p _).trans ?_
      rw [leafRead_nodeAt_of_ne v sym hne]
    · exact (nodeAt_setNode_of_ne _ _ hip.symm).trans (leafRead_nodeAt_of_ne v sym hi)
    · rw [leafRead_frame]
      rfl
  · have hbits : msbBits 9 (sym.setWidth 32) = msbBits 9 sym := msbBits_eq_of_toNat_mod (by simp)
    rw [exec_hdrLeaf_of_wrhdr sym hp, writeLeafToken_of_ready hk hs, Res.seq_ok,
      afterWriteToken_of_pending (List.cons_ne_nil _ _), settle_ok]
    simp [State.append, State.setStk, hbits]
    rfl

end Sys2Proof.Machine
end

section
/-!
PROOF of O53 (MagicFieldCompletes). A token does the same whatever the register `macroCmd` holds, which only what follows the
token's phase reads; there COMPRESS or DECOMPRESS goes on with its rest, and `State.RunsAs` says that this is the rest of its
commands.
-/
namespace Sys2Proof.Machine

/-! ## The magic field in a command of its own -/

theorem decompressMacro_ne : decompressMacro ≠ noMacro := by decide

theorem compressMacro_ne : compressMacro ≠ noMacro := by decide

/-- A command of its own ends with its phase. -/
theorem endPhase_of_noMacro {m : BitVec 2} (hm : m ≠ noMacro) (rest : State → Res Unit) {s : State}
    (h : s.work.macroCmd = noMacro) : endPhase m rest s = .ok () s.complete :=
  if_neg (h ▸ hm.symm)

/-- The magic is accepted in the phase that RDMAGIC is in (R148). -/
theorem readMagic_of_magic {s : State} {more : List Bool} (hp : s.phase = .rdmagic) (hr : s.sourceReady)
    (h : s.src.rest = msbBits 32 s.cfg.magic ++ more) : readMagic s = .ok () (s.advance 32 s.cfg.magic) := by
  have hphase : { s with phase := .rdmagic } = s := by rw [← hp]
  have hbody := rdmagicBody_completes hr h
  rwa [rdmagicBody, hphase] at hbody

/-! ## Tokens outside their phases -/

theorem exec_fileMagic_of_other {s : State} (hr : s.phase ≠ .rdmagic) (hw : s.phase ≠ .wrmagic) :
    exec .fileMagic s = .refused .tokenOutsidePhase := by
  change execFileMagic s = _
  unfold execFileMagic
  split
  · exact absurd ‹_› hr
  · exact absurd ‹_› hw
  · rfl

theorem exec_hdrNode_of_other {s : State} (hr : s.phase ≠ .rdhdr) (hw : s.phase ≠ .wrhdr) :
    exec .hdrNode s = .refused .tokenOutsidePhase := by
  change execHdrNode s = _
  unfold execHdrNode
  split
  · exact absurd ‹_› hr
  · exact absurd ‹_› hw
  · rfl

theorem exec_hdrLeaf_of_other (sym : Sym) {s : State} (hr : s.phase ≠ .rdhdr) (hw : s.phase ≠ .wrhdr) :
    exec (.hdrLeaf sym) s = .refused .tokenOutsidePhase := by
  change execHdrLeaf sym s = _
  unfold execHdrLeaf
  split
  · exact absurd ‹_› hr
  · exact absurd ‹_› hw
  · rfl

/-! ## Tokens inside COMPRESS and DECOMPRESS -/

/-- No part of a command writes the register `macroCmd`. -/
theorem IsPart.passes_macroCmd {β : Type} {v : State → β} {c : State → Res Unit} (h : IsPart v c) {s : State}
    {Q : State → Prop} (hq : (c s).Passes Q) : (c s).Passes fun t => Q t ∧ t.work.macroCmd = s.work.macroCmd where
  goesOn t ht := by
    have hself : c s = (c s).map (State.relabel id fun _ => s.work.macroCmd) :=
      (h id (fun _ => s.work.macroCmd) s).relabelled
    rw [ht] at hself
    injection hself with _ hself
    exact ⟨hq.goesOn t ht, congrArg (fun u => u.work.macroCmd) hself⟩
  stalls := hq.stalls

/-- From `s`, inside COMPRESS or DECOMPRESS, `c` does what it does in a command of its own and, where that ends, what the commands
`is` do. -/
def State.TokenRunsAs (is : List Instr) (c : State → Res Unit) (s : State) : Prop :=
  SameButMacro (settle (c s)) (thenCommands is (settle (c s.forgetMacro)))

section
variable {is : List Instr} {s : State}

theorem tokenRunsAs_waits (h : s.phase ≠ .idle) : s.TokenRunsAs is (.ok ()) :=
  have hstop : thenCommands is (.next s.forgetMacro) = .next s.forgetMacro := thenCommands_of_not_idle is h
  (congrArg (mapNext State.forgetMacro) hstop).symm

theorem State.RunsAs.endPhase {m : BitVec 2} {rest : State → Res Unit} (h : s.RunsAs is rest) (hm : m ≠ noMacro)
    (hs : s.work.macroCmd = m) : s.TokenRunsAs is (endPhase m rest) := by
  have hmacro : Machine.endPhase m rest s = (rest s).seq fun t => .ok () t.complete := if_pos hs
  rw [State.TokenRunsAs, hmacro, endPhase_of_noMacro hm rest (s := s.forgetMacro) rfl]
  exact h

theorem IsPart.tokenRunsAs_seq {β : Type} {v : State → β} {c k : State → Res Unit} (h : IsPart v c)
    (hk : (c s).Passes (State.TokenRunsAs is k)) : s.TokenRunsAs is fun t => (c t).seq k := by
  rw [State.TokenRunsAs, h.forgetMacro]
  cases hr : c s with
  | ok _ t => exact hk.goesOn t hr
  | stop q t =>
    cases q with
    | stall => exact tokenRunsAs_waits (hk.stalls t hr)
    | raise k | fault f | refuse q => rfl

/-- After a token of RDHDR in DECOMPRESS (R122, R152). -/
theorem afterReadToken_tokenRunsAs (h : s.Active) (hp : s.phase ≠ .idle) (hm : s.work.macroCmd = decompressMacro) :
    s.TokenRunsAs [.decbody, .close] afterReadToken := by
  by_cases hstk : s.work.stk = []
  · have hend (t : State) (ht : t.work.stk = []) :
        afterReadToken t = (rdhdrEnd t).seq (endPhase decompressMacro decompressAfterHeader) := if_pos ht
    rw [State.TokenRunsAs, hend s hstk, hend s.forgetMacro hstk]
    exact rdhdrEnd_part.tokenRunsAs_seq <| (rdhdrEnd_part.passes_macroCmd (rdhdrEnd_passes h)).mono
      fun t ⟨⟨ht, hv⟩, hmt⟩ => (decompressAfterHeader_runsAs ht hv).endPhase decompressMacro_ne (hmt.trans hm)
  · rw [State.TokenRunsAs, afterReadToken_of_open hstk, afterReadToken_of_open (s := s.forgetMacro) hstk]
    exact tokenRunsAs_waits hp

/-- After a token of WRHDR in COMPRESS (R115, R151). -/
theorem afterWriteToken_tokenRunsAs (h : s.Active) (hc : s.codesValid = true) (hp : s.phase ≠ .idle)
    (hm : s.work.macroCmd = compressMacro) : s.TokenRunsAs [.encbody, .close] afterWriteToken := by
  by_cases hstk : s.work.stk = []
  · have hend (t : State) (ht : t.work.stk = []) :
        afterWriteToken t = endPhase compressMacro compressAfterHeader t := if_pos ht
    rw [State.TokenRunsAs, hend s hstk, hend s.forgetMacro hstk]
    exact (compressAfterHeader_runsAs h hc).endPhase compressMacro_ne hm
  · rw [State.TokenRunsAs, afterWriteToken_of_pending hstk, afterWriteToken_of_pending (s := s.forgetMacro) hstk]
    exact tokenRunsAs_waits hp

/-- A token inside its phase of COMPRESS or DECOMPRESS: what follows starts with the sequencer's registers of the token. -/
theorem IsPart.token_tokenRunsAs {c k : State → Res Unit} (hc : IsPart State.control c) (hp : s.phase ≠ .idle)
    (hk : ∀ t : State, t.control = s.control → t.work.macroCmd = s.work.macroCmd → t.TokenRunsAs is k) :
    SameButMacro (settle ((c s).seq k)) (thenCommands is (settle ((c s.forgetMacro).seq k))) :=
  hc.tokenRunsAs_seq <| (hc.passes_macroCmd (hc.passes hp)).mono fun t ⟨ht, hm⟩ => hk t ht hm

theorem IsPart.readToken_tokenRunsAs {c : State → Res Unit} (hc : IsPart State.control c) (h : s.Active)
    (hp : s.phase = .rdhdr) (hm : s.work.macroCmd = decompressMacro) :
    SameButMacro (settle ((c s).seq afterReadToken))
      (thenCommands [.decbody, .close] (settle ((c s.forgetMacro).seq afterReadToken))) :=
  hc.token_tokenRunsAs (by simp [hp]) fun t ht hmt =>
    afterReadToken_tokenRunsAs (h.of_control ht) (by simp [phase_of_control ht, hp]) (hmt.trans hm)

theorem IsPart.writeToken_tokenRunsAs {c : State → Res Unit} (hc : IsPart State.control c) (h : s.Active)
    (hcodes : s.codesValid = true) (hp : s.phase = .wrhdr) (hm : s.work.macroCmd = compressMacro) :
    SameButMacro (settle ((c s).seq afterWriteToken))
      (thenCommands [.encbody, .close] (settle ((c s.forgetMacro).seq afterWriteToken))) :=
  hc.token_tokenRunsAs (by simp [hp]) fun t ht hmt =>
    afterWriteToken_tokenRunsAs (h.of_control ht) ((congrArg State.codesValid ht).trans hcodes)
      (by simp [phase_of_control ht, hp]) (hmt.trans hm)

theorem readMagic_tokenRunsAs (h : s.Active) (hp : s.phase = .rdmagic) (hm : s.work.macroCmd = decompressMacro) :
    SameButMacro (exec .fileMagic s) (thenCommands [.rdhdr, .decbody, .close] (exec .fileMagic s.forgetMacro)) := by
  rw [exec_fileMagic_of_rdmagic hp, exec_fileMagic_of_rdmagic (s := s.forgetMacro) hp]
  exact readMagic_part.token_tokenRunsAs (by simp [hp]) fun t ht hmt =>
    (decompressAfterMagic_runsAs (h.of_control ht)).endPhase decompressMacro_ne (hmt.trans hm)

theorem writeMagic_tokenRunsAs (h : s.Active) (hv : s.treeValid = true) (hc : s.codesValid = true)
    (hp : s.phase = .wrmagic) (hm : s.work.macroCmd = compressMacro) :
    SameButMacro (exec .fileMagic s) (thenCommands [.wrhdr, .encbody, .close] (exec .fileMagic s.forgetMacro)) := by
  rw [exec_fileMagic_of_wrmagic hp, exec_fileMagic_of_wrmagic (s := s.forgetMacro) hp]
  exact (sinkWrite_part 32 s.cfg.magic).token_tokenRunsAs (by simp [hp]) fun t ht hmt =>
    (compressAfterMagic_runsAs (h.of_control ht) ((congrArg State.treeValid ht).trans hv)
      ((congrArg State.codesValid ht).trans hc)).endPhase compressMacro_ne (hmt.trans hm)

end

/-- Settles O53: in a command of its own the magic field ends the command; elsewhere a token is refused; in
COMPRESS and DECOMPRESS the rest follows, which runs as the rest of the commands. -/
theorem magicFieldCompletes : Obligations.MagicFieldCompletes := by
  unfold Obligations.MagicFieldCompletes
  refine ⟨fun s more hp hm hr h => ?_, fun s hp hm hk => ?_, fun s => ⟨exec_fileMagic_of_other, fun hr hw =>
    ⟨exec_hdrNode_of_other hr hw, fun sym => exec_hdrLeaf_of_other sym hr hw⟩⟩, fun i is s hb hd hcase => ?_⟩
  · have hexec : exec .fileMagic s = .next (s.advance 32 s.cfg.magic).complete := by
      rw [exec_fileMagic_of_rdmagic hp, readMagic_of_magic hp hr h, Res.seq_ok,
        endPhase_of_noMacro decompressMacro_ne _ (s := s.advance 32 s.cfg.magic) hm, settle_ok]
    exact ⟨_, hexec, rfl⟩
  · rw [exec_fileMagic_of_wrmagic hp, writeMagic, sinkWrite_of_ready 32 _ hk, Res.seq_ok,
      endPhase_of_noMacro compressMacro_ne _ (s := s.append 32 s.cfg.magic) hm, settle_ok]
    rfl
  · have hs : s.Active := ⟨hb, hd⟩
    rcases hcase with ⟨rfl, hp, hm, rfl⟩ | ⟨rfl, hp, hm, hv, hc, rfl⟩ |
      ⟨rfl | ⟨sym, rfl⟩, ⟨hp, hm, rfl⟩ | ⟨hp, hm, hc, rfl⟩⟩
    · exact readMagic_tokenRunsAs hs hp hm
    · exact writeMagic_tokenRunsAs hs hv hc hp hm
    · rw [exec_hdrNode_of_rdhdr hp, exec_hdrNode_of_rdhdr (s := s.forgetMacro) hp]
      exact takeNode_part.readToken_tokenRunsAs hs hp hm
    · rw [exec_hdrNode_of_wrhdr hp, exec_hdrNode_of_wrhdr (s := s.forgetMacro) hp]
      exact writeNodeToken_part.writeToken_tokenRunsAs hs hc hp hm
    · rw [exec_hdrLeaf_of_rdhdr sym hp, exec_hdrLeaf_of_rdhdr (s := s.forgetMacro) sym hp]
      exact (takeLeaf_part sym).readToken_tokenRunsAs hs hp hm
    · rw [exec_hdrLeaf_of_wrhdr sym hp, exec_hdrLeaf_of_wrhdr (s := s.forgetMacro) sym hp]
      exact (writeLeafToken_part sym).writeToken_tokenRunsAs hs hc hp hm

end Sys2Proof.Machine
end

section
/-!
PROOF of O26 (AnalyzeCountsTheWords) and of O27 (AnalyzeOverflowsAtCmax): what ANALYZE leaves where it completes, and the scan up to
the word whose counter is full (spec/40_frequency_analyzer.md R83 to R85).
-/
namespace Sys2Proof.Machine

theorem State.Moved.treeValid {s t : State} {pos : Nat} {bits : List Bool} (h : s.Moved pos bits t) :
    t.treeValid = s.treeValid := by obtain ⟨_, _, _, _, _, _, rfl⟩ := h; rfl

theorem State.Moved.codesValid {s t : State} {pos : Nat} {bits : List Bool} (h : s.Moved pos bits t) :
    t.codesValid = s.codesValid := by obtain ⟨_, _, _, _, _, _, rfl⟩ := h; rfl

/-- Settles O26: the body counts every word and rewinds the source, and the command then completes. -/
theorem analyzeCountsTheWords : Obligations.AnalyzeCountsTheWords := by
  unfold Obligations.AnalyzeCountsTheWords
  intro s hcfg hi hr hmax
  obtain ⟨u, hu, hm, hcounts, htrace⟩ := analyzeBody_completes (s := s.start noMacro) hcfg hr hmax
  have hexec : exec .analyze s = .next u.complete := accept_of_ok hi rfl hu
  exact ⟨u.complete, hexec, hcounts, freqAt_eos _, hm.src, hm.freqValid, hm.treeValid, hm.codesValid, rfl, ⟨rfl, rfl⟩, htrace⟩

/-! ## The scan, word by word -/

/-- The state after a word is read and counted (R83). -/
def State.counted (x : BitVec 8) (s : State) : State :=
  (s.advance 8 (x.setWidth 32)).setFreq x (s.freqAt x.toNat + 1#32)

theorem State.moved_counted (x : BitVec 8) (s : State) : s.Moved (s.src.pos + 8) [] (s.counted x) :=
  s.moved_of_read _ _ _ _ _ _ _

/-- The scan takes a word whose counter is below `CMAX`, and that counter goes up by one (R83). -/
theorem analyzeLoop_word {s : State} {x : BitVec 8} {xs : List (BitVec 8)} (hcfg : s.cfg.wf = true) (hr : s.sourceReady)
    (hw : s.words = x :: xs) (hx : (s.freqAt x.toNat).toNat < s.cfg.cmax) (bound : Nat) :
    analyzeLoop (bound + 1) s = analyzeLoop bound (s.counted x) ∧ (s.counted x).words = xs ∧
      ∀ y : BitVec 8, ((s.counted x).freqAt y.toNat).toNat = (s.freqAt y.toNat).toNat + [x].count y := by
  obtain ⟨hread, hxs⟩ := srcRead_of_words_cons hr hw
  obtain ⟨hword, hsucc⟩ := countWord_counts (s := s.advance 8 (x.setWidth 32)) hcfg hx
  refine ⟨?_, hxs, fun y => ?_⟩
  · rw [analyzeLoop, hread, Res.bind_ok]
    dsimp only
    rw [setWidth_setWidth_byte, hword, Res.seq_ok]
    rfl
  · rw [State.counted, freqAt_setFreq, List.count_singleton]
    by_cases hxy : x = y
    · subst hxy
      rw [if_pos rfl, if_pos (beq_self_eq_true x)]
      exact hsucc
    · rw [if_neg fun e => hxy (BitVec.eq_of_toNat_eq e), if_neg (by simpa using hxy)]
      rfl

/-- The scan ends at a word whose counter is at `CMAX`: the word is read and not counted (R84). -/
theorem analyzeLoop_full {s : State} {x : BitVec 8} {xs : List (BitVec 8)} (hr : s.sourceReady) (hw : s.words = x :: xs)
    (hx : (s.freqAt x.toNat).toNat = s.cfg.cmax) (bound : Nat) :
    analyzeLoop (bound + 1) s = .stop (.raise .countOverflow) (s.advance 8 (x.setWidth 32)) := by
  have hword : countWord x (s.advance 8 (x.setWidth 32)) = .stop (.raise .countOverflow) (s.advance 8 (x.setWidth 32)) :=
    if_pos hx
  rw [analyzeLoop, (srcRead_of_words_cons hr hw).1, Res.bind_ok]
  dsimp only
  rw [setWidth_setWidth_byte, hword, Res.seq_stop]

/-- The scan up to a word whose counter the words before it fill: those words are counted, the word itself is read, and its
counter stays at `CMAX` (R83, R84). -/
theorem analyzeLoop_overflows {s : State} {before after : List (BitVec 8)} {x : BitVec 8} (hcfg : s.cfg.wf = true)
    (hr : s.sourceReady) (hw : s.words = before ++ x :: after)
    (hfull : (s.freqAt x.toNat).toNat + before.count x = s.cfg.cmax)
    (hmax : ∀ y : BitVec 8, (s.freqAt y.toNat).toNat + before.count y ≤ s.cfg.cmax) {bound : Nat}
    (hb : before.length < bound) :
    ∃ u, analyzeLoop bound s = .stop (.raise .countOverflow) u ∧ s.Moved (s.src.pos + 8 * (before.length + 1)) [] u ∧
      (u.freqAt x.toNat).toNat = s.cfg.cmax ∧ u.trace = s.trace ++ (before ++ [x]).map readOf := by
  induction before generalizing s bound with
  | nil =>
    obtain ⟨bound, rfl⟩ := Nat.exists_eq_add_one_of_ne_zero (Nat.ne_of_gt hb)
    exact ⟨_, analyzeLoop_full hr hw hfull bound, s.moved_advance 8 _, hfull, rfl⟩
  | cons y ys ih =>
    obtain ⟨bound, rfl⟩ := Nat.exists_eq_add_one_of_ne_zero (Nat.ne_of_gt (Nat.zero_lt_of_lt hb))
    have hlt : (s.freqAt y.toNat).toNat < s.cfg.cmax := by
      have := hmax y
      rw [List.count_cons_self] at this
      omega
    obtain ⟨hloop, hwords, hfreq⟩ := analyzeLoop_word hcfg hr hw hlt bound
    have hsum (z : BitVec 8) :
        ((s.counted y).freqAt z.toNat).toNat + ys.count z = (s.freqAt z.toNat).toNat + (y :: ys).count z := by
      rw [hfreq, Nat.add_assoc, ← List.count_append, List.singleton_append]
    obtain ⟨u, hu, hm, hux, htrace⟩ := ih (s := s.counted y) hcfg hr hwords ((hsum x).trans hfull)
      (fun z => (hsum z).trans_le (hmax z)) (Nat.lt_of_succ_lt_succ hb)
    have hpos : (s.counted y).src.pos + 8 * (ys.length + 1) = s.src.pos + 8 * ((y :: ys).length + 1) := by
      rw [(s.moved_counted y).src, List.length_cons]
      dsimp only
      omega
    refine ⟨u, hloop.trans hu, hpos ▸ (s.moved_counted y).trans hm, hux, htrace.trans ?_⟩
    exact List.append_assoc s.trace [readOf y] _

/-- Settles O27: the scan ends at the word, and neither the rewind nor a write follows the error. -/
theorem analyzeOverflowsAtCmax : Obligations.AnalyzeOverflowsAtCmax := by
  unfold Obligations.AnalyzeOverflowsAtCmax
  intro s before after x hcfg hi hr hw hfull hmax
  have hcount (y : BitVec 8) :
      ((analyzeStart (s.start noMacro)).freqAt y.toNat).toNat + before.count y = before.count y := by
    rw [analyzeStart_freqAt]
    exact Nat.zero_add _
  have hb : before.length < (s.start noMacro).src.bits.length + 1 := by
    have h := words_length_lt s
    rw [hw, List.length_append] at h
    exact Nat.lt_of_le_of_lt (Nat.le_add_right _ _) h
  obtain ⟨u, hu, hm, hux, htrace⟩ := analyzeLoop_overflows (s := analyzeStart (s.start noMacro)) hcfg hr hw
    ((hcount x).trans hfull) (fun y => (hcount y).trans_le (hmax y)) hb
  have hexec : exec .analyze s = .next (raiseErr .countOverflow u) := by
    change accept noPrerequisite noMacro analyzeBody s = _
    rw [accept_of_ready hi rfl, analyzeBody, hu, Res.seq_stop, Res.seq_stop, Res.seq_stop, settle_raise]
  exact ⟨_, hexec, rfl, rfl, hux, congrArg Source.pos hm.src, hm.snk.trans (by rw [List.append_nil]; rfl), htrace⟩

end Sys2Proof.Machine
end

section
/-!
PROOF of O42 (ReadingFrames). A frame is an equality of views: `State.outsideReading` blanks what ANALYZE, RDMAGIC and RDHDR may all
change, `State.withoutCounts` and `State.withoutTree` the table that ANALYZE and RDHDR make. Each part of the three commands
keeps the view (`Keeps`), so a next state shows what the state before did.
-/
namespace Sys2Proof.Machine

/-! ## Parts that keep a view -/

/-- `c` ends, or stops, in a state that shows what the state before it did. -/
def Keeps {α β : Type} (v : State → β) (c : State → Res α) : Prop := ∀ s, (c s).Ends fun t => v t = v s

theorem Keeps.bind {α β γ : Type} {v : State → γ} {c : State → Res α} {k : α → State → Res β} (hc : Keeps v c)
    (hk : ∀ a, Keeps v (k a)) : Keeps v fun s => (c s).bind k := fun s =>
  (hc s).bind fun a t ht => (hk a t).mono fun _ hu => hu.trans ht

theorem Keeps.seq {γ : Type} {v : State → γ} {c d : State → Res Unit} (hc : Keeps v c) (hd : Keeps v d) :
    Keeps v fun s => (c s).seq d := hc.bind fun _ => hd

/-- A view of a view is kept too. -/
theorem Keeps.view {α β γ : Type} {v : State → β} {c : State → Res α} (h : Keeps v c) (f : β → γ) :
    Keeps (fun s => f (v s)) c := fun s => (h s).mono fun _ ht => congrArg f ht

/-! ## What the reading commands may change -/

/-- The state with the sequencer's registers, the read position, the registers of a read and the model's own records blanked. -/
def State.outsideReading (s : State) : State :=
  { s with
    phase := .idle, errCode := none, busy := false, done := false, freqValid := false, treeValid := false, codesValid := false
    src := { s.src with pos := 0, answers := none }
    work := { s.work with w := 0#32, eos := false, macroCmd := noMacro }
    trace := [], freeCount := 0 }

/-- The state with the frequency table blanked. -/
def State.withoutCounts (s : State) : State := { s with freq := State.reset.freq }

/-- The state with the tree and RDHDR's stack blanked. -/
def State.withoutTree (s : State) : State :=
  { s with treeOrigin := .built, node := State.reset.node, nodeCount := 0#10, root := 0#10
           work := { s.work with stk := [] } }

theorem srcRead_keeps (n : Nat) : Keeps State.outsideReading (srcRead n) := fun s => by
  unfold srcRead
  split
  · split
    · rfl
    · rfl
  · rfl

theorem srcReset_keeps : Keeps State.outsideReading srcReset := fun s => by
  unfold srcReset
  split
  · rfl
  · rfl

/-- Acceptance, completion and error entry change only the sequencer's registers, so a command keeps what its body keeps. -/
theorem accept_keeps {γ : Type} {f : State → γ} {pre : State → Bool} {m : BitVec 2} {body : State → Res Unit} {s t : State}
    (hbody : Keeps (fun s => f s.outsideReading) body) (h : accept pre m body s = .next t) :
    f t.outsideReading = f s.outsideReading := by
  have hends := hbody (s.start m)
  rcases accept_cases h with ⟨-, rfl⟩ | ⟨-, -, -, rfl⟩ | ⟨-, -, -, ⟨u, hu, rfl⟩ | hu | ⟨k, u, hu, rfl⟩⟩
  · rfl
  · rfl
  · rw [hu] at hends
    exact hends
  · rw [hu] at hends
    exact hends
  · rw [hu] at hends
    exact hends

/-! ## ANALYZE -/

theorem countWord_keeps (x : BitVec 8) : Keeps (fun s => s.outsideReading.withoutCounts) (countWord x) := fun s => by
  unfold countWord
  split
  · rfl
  · rfl

theorem analyzeLoop_keeps (bound : Nat) : Keeps (fun s => s.outsideReading.withoutCounts) (analyzeLoop bound) := by
  induction bound with
  | zero => exact fun _ => rfl
  | succ bound ih =>
    refine ((srcRead_keeps 8).view State.withoutCounts).bind fun v => ?_
    cases v with
    | none => exact fun _ => rfl
    | some w => exact (countWord_keeps _).seq ih

theorem analyzeBody_keeps : Keeps (fun s => s.outsideReading.withoutCounts) analyzeBody := fun s => by
  have hend : Keeps (fun s => s.outsideReading.withoutCounts) fun s => .ok () { s with freqValid := true } := fun _ => rfl
  exact (((analyzeLoop_keeps _).seq (srcReset_keeps.view State.withoutCounts)).seq hend) (analyzeStart s)

/-! ## RDMAGIC -/

theorem readMagic_keeps : Keeps State.outsideReading readMagic := by
  refine (srcRead_keeps 32).bind fun v => ?_
  cases v with
  | none => exact fun _ => rfl
  | some w =>
    intro t
    dsimp only
    split
    · rfl
    · rfl

theorem rdmagicBody_keeps : Keeps State.outsideReading rdmagicBody := fun s => readMagic_keeps { s with phase := .rdmagic }

/-! ## RDHDR -/

theorem alloc_keeps (n : Node) : Keeps (fun s => s.outsideReading.withoutTree) (alloc n) := fun s => by
  rcases alloc_cases n s with ⟨-, h⟩ | ⟨-, h⟩
  · rw [h]; rfl
  · rw [h]; rfl

theorem attach_view (i : Idx) (stk : List StkEntry) (s : State) :
    (attach i stk s).outsideReading.withoutTree = s.outsideReading.withoutTree := by
  obtain ⟨node, stk', h⟩ := attach_frame i stk s
  rw [h]
  rfl

theorem closeLeaf_keeps (i : Idx) (sym : Sym) :
    Keeps (fun s => s.outsideReading.withoutTree) fun s => .ok () (closeLeaf i sym s) := fun s =>
  attach_view i s.work.stk (s.setNode i { s.nodeAt i with sym := sym })

theorem readLeafRest_keeps : Keeps (fun s => s.outsideReading.withoutTree) readLeafRest := by
  refine (alloc_keeps _).bind fun i => ((srcRead_keeps 9).view State.withoutTree).bind fun v => ?_
  cases v with
  | none => exact fun _ => rfl
  | some w => exact closeLeaf_keeps i _

theorem openNode_keeps : Keeps (fun s => s.outsideReading.withoutTree) openNode := by
  refine (alloc_keeps _).bind fun i => ?_
  exact fun _ => rfl

theorem readToken_keeps : Keeps (fun s => s.outsideReading.withoutTree) readToken := by
  refine ((srcRead_keeps 1).view State.withoutTree).bind fun v => ?_
  cases v with
  | none => exact fun _ => rfl
  | some b =>
    intro t
    dsimp only
    split
    · exact readLeafRest_keeps t
    · exact openNode_keeps t

theorem readTokens_keeps (bound : Nat) : Keeps (fun s => s.outsideReading.withoutTree) (readTokens bound) := by
  induction bound with
  | zero => exact fun _ => rfl
  | succ bound ih =>
    refine readToken_keeps.seq fun t => ?_
    split
    · rfl
    · exact ih t

theorem rdhdrEnd_keeps : Keeps (fun s => s.outsideReading.withoutTree) rdhdrEnd := fun s => by
  unfold rdhdrEnd
  split
  · rfl
  · rfl

theorem rdhdrBody_keeps : Keeps (fun s => s.outsideReading.withoutTree) rdhdrBody := fun s =>
  ((readTokens_keeps _).seq rdhdrEnd_keeps) (rdhdrStart s)

/-! ## The frames -/

/-- `s` with all that `State.outsideReading` blanks taken from `t`. -/
def State.withReadingOf (t s : State) : State :=
  { s with phase := t.phase, errCode := t.errCode, busy := t.busy, done := t.done, freqValid := t.freqValid,
           treeValid := t.treeValid, codesValid := t.codesValid
           src := { s.src with pos := t.src.pos, answers := t.src.answers }
           work := { s.work with w := t.work.w, eos := t.work.eos, macroCmd := t.work.macroCmd }
           trace := t.trace, freeCount := t.freeCount }

/-- `s` with the frequency table of `t`. -/
def State.withCountsOf (t s : State) : State := { s with freq := t.freq }

/-- `s` with the tree and the stack of `t`. -/
def State.withTreeOf (t s : State) : State :=
  { s with treeOrigin := t.treeOrigin, node := t.node, nodeCount := t.nodeCount, root := t.root
           work := { s.work with stk := t.work.stk } }

/-- Settles O42: a next state is its own view with what was blanked put back, and its view is that of the state before. -/
theorem readingFrames : Obligations.ReadingFrames := by
  unfold Obligations.ReadingFrames
  refine ⟨fun s t h => ?_, fun s t h => ?_, fun s t h => ?_⟩
  · have hview : t.outsideReading.withoutCounts = s.outsideReading.withoutCounts := accept_keeps analyzeBody_keeps h
    have hframe := congrArg (fun u => t.withReadingOf (t.withCountsOf u)) hview
    exact hframe
  · have hview : t.outsideReading = s.outsideReading := accept_keeps (f := id) rdmagicBody_keeps h
    have hframe := congrArg t.withReadingOf hview
    exact hframe
  · have hview : t.outsideReading.withoutTree = s.outsideReading.withoutTree := accept_keeps rdhdrBody_keeps h
    have hframe := congrArg (fun u => t.withReadingOf (t.withTreeOf u)) hview
    exact hframe

end Sys2Proof.Machine
end

section
/-!
PROOF of O34 (BuildAndGencodesFrame). As for the frames of the reading commands, each part of BUILD and of GENCODES keeps a view
(`Keeps`): here the state with what acceptance may change, and what the command makes, blanked. No part touches a stream.
-/
namespace Sys2Proof.Machine

/-! ## Acceptance -/

/-- The state with the sequencer's registers blanked. -/
def State.outsideSequencer (s : State) : State :=
  { s with phase := .idle, errCode := none, busy := false, done := false, freqValid := false, treeValid := false
           codesValid := false, work := { s.work with macroCmd := noMacro } }

/-- Acceptance, completion and error entry change only the sequencer's registers (R153, R176). -/
theorem accept_keeps_view {γ : Type} {f : State → γ} {pre : State → Bool} {m : BitVec 2} {body : State → Res Unit}
    {s t : State} (hbody : Keeps (fun s => f s.outsideSequencer) body) (h : accept pre m body s = .next t) :
    f t.outsideSequencer = f s.outsideSequencer := by
  have hends := hbody (s.start m)
  rcases accept_cases h with ⟨-, rfl⟩ | ⟨-, -, -, rfl⟩ | ⟨-, -, -, ⟨u, hu, rfl⟩ | hu | ⟨k, u, hu, rfl⟩⟩
  · rfl
  · rfl
  · rw [hu] at hends
    exact hends
  · rw [hu] at hends
    exact hends
  · rw [hu] at hends
    exact hends

/-- A change that a view does not show may come before a part that keeps the view. -/
theorem Keeps.update {α β : Type} {v : State → β} {c : State → Res α} (hc : Keeps v c) {g : State → State}
    (hg : ∀ s, v (g s) = v s) : Keeps v fun s => c (g s) := fun s => (hc (g s)).mono fun _ h => h.trans (hg s)

/-! ## BUILD -/

/-- The state with the tree and the builder's working registers blanked. -/
def State.withoutBuild (s : State) : State :=
  { s with treeOrigin := .built, node := State.reset.node, nodeCount := 0#10, root := 0#10, pq := []
           work := { s.work with m := 0#9, a := State.reset.work.a, b := State.reset.work.b } }

/-- `c` changes nothing but the tree, the builder's working registers and the sequencer's registers. -/
abbrev BuildsOnly {α : Type} (c : State → Res α) : Prop := Keeps (fun s => s.outsideSequencer.withoutBuild) c

theorem alloc_buildsOnly (n : Node) : BuildsOnly (alloc n) := fun s => by
  rcases alloc_cases n s with ⟨-, h⟩ | ⟨-, h⟩
  · rw [h]; rfl
  · rw [h]; rfl

theorem removeMin_buildsOnly : BuildsOnly removeMin := fun s => by
  rcases removeMin_cases s with ⟨-, h⟩ | ⟨_, _, -, h⟩
  · rw [h]; rfl
  · rw [h]; rfl

theorem loadLeaf_buildsOnly (sym : Nat) (c : Count) : BuildsOnly (loadLeaf sym c) := by
  unfold loadLeaf
  split
  · exact fun _ => rfl
  · refine (alloc_buildsOnly _).bind fun i => ?_
    exact fun _ => rfl

theorem loadLeaves_buildsOnly (sym : Nat) (counts : List Count) : BuildsOnly (loadLeaves sym counts) := by
  induction counts generalizing sym with
  | nil => exact fun _ => rfl
  | cons c cs ih => exact (loadLeaf_buildsOnly sym c).seq (ih (sym + 1))

theorem mergeOnce_buildsOnly : BuildsOnly mergeOnce := by
  refine removeMin_buildsOnly.bind fun a => ?_
  refine (removeMin_buildsOnly.bind fun b => ?_).update (g := fun s => { s with work := { s.work with a := a } }) fun _ => rfl
  refine ((alloc_buildsOnly _).bind fun r => ?_).update (g := fun s => { s with work := { s.work with b := b } }) fun _ => rfl
  exact fun _ => rfl

theorem mergeLoop_buildsOnly (bound : Nat) : BuildsOnly (mergeLoop bound) := by
  induction bound with
  | zero => exact fun _ => rfl
  | succ bound ih =>
    intro s
    unfold mergeLoop
    split
    · exact mergeOnce_buildsOnly.seq ih s
    · rfl

theorem degenerate_buildsOnly : BuildsOnly degenerate := fun s => by
  refine (removeMin_buildsOnly s).bind fun a t ht => ?_
  refine ((alloc_buildsOnly _ { t with work := { t.work with a := a } }).bind fun p u hu => ?_).mono fun _ h => h.trans ht
  refine ((alloc_buildsOnly _ u).bind fun r v hv => ?_).mono fun _ h => h.trans hu
  exact hv

theorem mergeAll_buildsOnly : BuildsOnly mergeAll := fun s => by
  have hroot : BuildsOnly fun t => (removeMin t).bind fun a t => .ok () { t with root := a.idx, work := { t.work with a := a } } := by
    refine removeMin_buildsOnly.bind fun a => ?_
    exact fun _ => rfl
  exact (mergeLoop_buildsOnly s.pq.length).seq hroot s

theorem buildBody_buildsOnly : BuildsOnly buildBody := fun s => by
  have htree : BuildsOnly fun t => if t.pq.length = 1 then degenerate t else mergeAll t := fun t => by
    dsimp only
    split
    · exact degenerate_buildsOnly t
    · exact mergeAll_buildsOnly t
  have hend : BuildsOnly fun t => .ok () (buildEnd t) := fun _ => rfl
  exact ((loadLeaves_buildsOnly 0 s.counts).seq htree).seq hend (buildStart s)

/-! ## GENCODES -/

/-- The state with the code table and the path registers blanked. -/
def State.withoutCodes (s : State) : State :=
  { s with codeLen := State.reset.codeLen, codeBits := State.reset.codeBits
           work := { s.work with pathLen := 0#9, pathBits := 0#256 } }

theorem walk_keeps (bound : Nat) (i : Idx) (len : Len) (bits : CodeBits) :
    Keeps (fun s => s.outsideSequencer.withoutCodes) (walk bound i len bits) := by
  induction bound generalizing i len bits with
  | zero => exact fun _ => rfl
  | succ bound ih =>
    intro s
    have hleft : Keeps (fun s => s.outsideSequencer.withoutCodes) fun t =>
        walk bound (t.nodeAt i).left (len + 1#9) (bits <<< 1) t := fun t => ih _ _ _ t
    have hright : Keeps (fun s => s.outsideSequencer.withoutCodes) fun t =>
        walk bound (t.nodeAt i).right (len + 1#9) ((bits <<< 1) ||| 1#256) t := fun t => ih _ _ _ t
    unfold walk
    dsimp only
    split
    · rfl
    · exact hleft.seq hright (s.setPath len bits)

theorem gencodesBody_keeps : Keeps (fun s => s.outsideSequencer.withoutCodes) gencodesBody := fun s => by
  have hend : Keeps (fun s => s.outsideSequencer.withoutCodes) fun s => .ok () { s with codesValid := true } := fun _ => rfl
  exact (walk_keeps arenaSize s.root 0#9 0#256).seq hend (gencodesStart s)

/-! ## The frames -/

/-- `s` with the sequencer's registers of `t`. -/
def State.withSequencerOf (t s : State) : State :=
  { s with phase := t.phase, errCode := t.errCode, busy := t.busy, done := t.done, freqValid := t.freqValid
           treeValid := t.treeValid, codesValid := t.codesValid, work := { s.work with macroCmd := t.work.macroCmd } }

/-- `s` with the tree and the builder's working registers of `t`. -/
def State.withBuildOf (t s : State) : State :=
  { s with treeOrigin := t.treeOrigin, node := t.node, nodeCount := t.nodeCount, root := t.root, pq := t.pq
           work := { s.work with m := t.work.m, a := t.work.a, b := t.work.b } }

/-- `s` with the code table and the path registers of `t`. -/
def State.withCodesOf (t s : State) : State :=
  { s with codeLen := t.codeLen, codeBits := t.codeBits
           work := { s.work with pathLen := t.work.pathLen, pathBits := t.work.pathBits } }

/-- Settles O34: a next state is its own view with what was blanked put back, and its view is that of the state before. -/
theorem buildAndGencodesFrame : Obligations.BuildAndGencodesFrame := by
  unfold Obligations.BuildAndGencodesFrame
  refine ⟨fun s t h => ?_, fun s t h => ?_⟩
  · have hview : t.outsideSequencer.withoutBuild = s.outsideSequencer.withoutBuild := accept_keeps_view buildBody_buildsOnly h
    have hframe := congrArg (fun u => t.withSequencerOf (t.withBuildOf u)) hview
    exact hframe
  · have hview : t.outsideSequencer.withoutCodes = s.outsideSequencer.withoutCodes := accept_keeps_view gencodesBody_keeps h
    have hframe := congrArg (fun u => t.withSequencerOf (t.withCodesOf u)) hview
    exact hframe

end Sys2Proof.Machine
end

section
/-!
PROOF SUPPORT. What BUILD lays out in the arena (spec/41_tree_builder.md R92 to R99, R101): its loader and its merger keep the
invariant `State.Merging`, that the queue holds exactly the entries of the nodes without a parent and that every node made so far
is a merge of the two least. A layout is determined by its leaves and their weights (`State.Layout.nodeAt_unique`).
-/
namespace Sys2Proof.Machine

theorem QEntry.before_asymm {x y : QEntry} (h : x.before y = true) : ¬y.before x = true := by
  rw [QEntry.before_iff] at h ⊢
  omega

theorem toNat_ofNat_idx {n : Nat} (h : n < 1024) : (BitVec.ofNat 10 n).toNat = n := Nat.mod_eq_of_lt h

theorem ofNat_eq_idx {n : Nat} {i : Idx} (h : i.toNat = n) : BitVec.ofNat 10 n = i := by
  rw [← h, BitVec.ofNat_toNat, BitVec.setWidth_eq]

/-! ## A merge depends on the nodes made before it -/

section
variable {s t : State} {k j : Nat}

theorem State.entryOf_congr (k : Nat) {i : Idx} (h : t.nodeAt i = s.nodeAt i) : t.entryOf k i = s.entryOf k i := by
  rw [State.entryOf, State.entryOf, h]

theorem State.parentless_congr (h : ∀ p : Idx, p.toNat < k + j → t.nodeAt p = s.nodeAt p) (i : Idx) :
    t.Parentless k j i ↔ s.Parentless k j i := by
  refine and_congr_right fun _ => forall_congr' fun p => imp_congr_right fun _ => imp_congr_right fun hp => ?_
  rw [h p hp]

theorem State.parentless_zero {i : Idx} : s.Parentless k 0 i ↔ i.toNat < k :=
  ⟨fun h => h.1, fun h => ⟨h, fun p hk hp => absurd hk (by omega)⟩⟩

/-- The nodes without a parent before the next merge are those before this one but its two children, and its own. -/
theorem State.parentless_succ {p i : Idx} (hp : p.toNat = k + j) (hi : i.toNat < k + j) :
    s.Parentless k (j + 1) i ↔ s.Parentless k j i ∧ (s.nodeAt p).left ≠ i ∧ (s.nodeAt p).right ≠ i := by
  constructor
  · rintro ⟨-, h⟩
    exact ⟨⟨hi, fun q hk hq => h q hk (by omega)⟩, h p (by omega) (by omega)⟩
  · rintro ⟨⟨-, h⟩, hpi⟩
    refine ⟨by omega, fun q hk hq => ?_⟩
    by_cases hqp : q.toNat = k + j
    · obtain rfl : q = p := BitVec.eq_of_toNat_eq (hqp.trans hp.symm)
      exact hpi
    · exact h q hk (by omega)

/-- Merge `j` makes the node `n`, and its weight does not wrap (R101). -/
def State.IsExactMerge (s : State) (k j : Nat) (n : Node) : Prop :=
  s.IsMerge k j n ∧ n.weight.toNat = (s.nodeAt n.left).weight.toNat + (s.nodeAt n.right).weight.toNat

theorem State.IsMerge.congr {n : Node} (hn : s.IsMerge k j n) (h : ∀ p : Idx, p.toNat < k + j → t.nodeAt p = s.nodeAt p) :
    t.IsMerge k j n := by
  obtain ⟨hleaf, hsym, hw, hl, hr, hne, hleast⟩ := hn
  refine ⟨hleaf, hsym, ?_, (State.parentless_congr h _).2 hl, (State.parentless_congr h _).2 hr, hne, fun i hi hil => ?_⟩
  · rw [h _ hl.1, h _ hr.1]
    exact hw
  · have hi := (State.parentless_congr h i).1 hi
    rw [State.entryOf_congr k (h _ hl.1), State.entryOf_congr k (h _ hr.1), State.entryOf_congr k (h _ hi.1)]
    exact hleast i hi hil

theorem State.IsExactMerge.congr {n : Node} (hn : s.IsExactMerge k j n)
    (h : ∀ p : Idx, p.toNat < k + j → t.nodeAt p = s.nodeAt p) : t.IsExactMerge k j n := by
  obtain ⟨hmerge, hw⟩ := hn
  have ⟨_, _, _, hl, hr, _⟩ := hmerge
  refine ⟨hmerge.congr h, ?_⟩
  rw [h _ hl.1, h _ hr.1]
  exact hw

/-- There is one node that a merge can make: the least entry is one, and so is the least remaining one (R94). -/
theorem State.IsMerge.unique {n n' : Node} (h : s.IsMerge k j n) (h' : s.IsMerge k j n') : n = n' := by
  obtain ⟨leaf, sym, weight, left, right⟩ := n
  obtain ⟨leaf', sym', weight', left', right'⟩ := n'
  obtain ⟨rfl, rfl, hw, hl, hr, hne, hleast⟩ := h
  obtain ⟨rfl, rfl, hw', hl', hr', hne', hleast'⟩ := h'
  dsimp only at *
  obtain rfl : left = left' := by
    by_contra hdiff
    exact QEntry.before_asymm (hleast left' hl' (Ne.symm hdiff)).1 (hleast' left hl hdiff).1
  obtain rfl : right = right' := by
    by_contra hdiff
    exact QEntry.before_asymm ((hleast right' hr' hne'.symm).2 (Ne.symm hdiff)) ((hleast' right hr hne.symm).2 hdiff)
  rw [hw, hw']

end

/-! ## The layout -/

/-- The arena holds the leaves `ls` with the weights `w`, in this order, and after them the nodes of the first `m` merges
(R93, R95, R96, R99). -/
structure State.Layout (w : Sym → Weight) (ls : List Sym) (m : Nat) (s : State) : Prop where
  leaves : ∀ (j : Nat) (x : Sym), ls[j]? = some x → s.nodeAt (BitVec.ofNat 10 j) = leafNode x (w x)
  merges : ∀ j < m, s.IsExactMerge ls.length j (s.nodeAt (BitVec.ofNat 10 (ls.length + j)))

section
variable {w : Sym → Weight} {ls : List Sym} {m : Nat} {s t : State}

theorem State.Layout.congr (h : s.Layout w ls m) (hfit : ls.length + m ≤ 1024)
    (hst : ∀ p : Idx, p.toNat < ls.length + m → t.nodeAt p = s.nodeAt p) : t.Layout w ls m where
  leaves j x hx := by
    have hj := (List.getElem?_eq_some_iff.1 hx).1
    rw [hst _ (by rw [toNat_ofNat_idx] <;> omega)]
    exact h.leaves j x hx
  merges j hj := by
    rw [hst _ (by rw [toNat_ofNat_idx] <;> omega)]
    exact (h.merges j hj).congr fun p hp => hst p (by omega)

/-- The layout depends on the arena only. -/
theorem State.Layout.of_node (h : s.Layout w ls m) (ht : t.node = s.node) : t.Layout w ls m where
  leaves j x hx := (nodeAt_congr ht _).trans (h.leaves j x hx)
  merges j hj := by
    rw [nodeAt_congr ht]
    exact (h.merges j hj).congr fun p _ => nodeAt_congr ht p

theorem State.Layout.nodeAt_leaf (h : s.Layout w ls m) {i : Idx} (hi : i.toNat < ls.length) :
    s.nodeAt i = leafNode ls[i.toNat] (w ls[i.toNat]) := by
  have hleaf := h.leaves i.toNat _ (List.getElem?_eq_getElem hi)
  rwa [ofNat_eq_idx rfl] at hleaf

theorem State.Layout.nodeAt_merge (h : s.Layout w ls m) {i : Idx} (hk : ls.length ≤ i.toNat)
    (hi : i.toNat < ls.length + m) : s.IsExactMerge ls.length (i.toNat - ls.length) (s.nodeAt i) := by
  have hmerge := h.merges (i.toNat - ls.length) (by omega)
  rwa [ofNat_eq_idx (i := i) (by omega)] at hmerge

/-- Children lie below their parents (R99). -/
theorem State.Layout.children_lt (h : s.Layout w ls m) {i : Idx} (hk : ls.length ≤ i.toNat)
    (hi : i.toNat < ls.length + m) : (s.nodeAt i).left.toNat < i.toNat ∧ (s.nodeAt i).right.toNat < i.toNat := by
  obtain ⟨⟨-, -, -, ⟨hl, -⟩, ⟨hr, -⟩, -⟩, -⟩ := h.nodeAt_merge hk hi
  omega

/-- Only the merged nodes are internal. -/
theorem State.Layout.le_of_internal (h : s.Layout w ls m) {i : Idx} (hi : (s.nodeAt i).leaf = false) : ls.length ≤ i.toNat := by
  by_contra hlt
  rw [h.nodeAt_leaf (by omega)] at hi
  cases hi

/-- The node made last has no parent. -/
theorem State.Layout.parentless_last (h : s.Layout w ls (m + 1)) {i : Idx} (hi : i.toNat = ls.length + m) :
    s.Parentless ls.length (m + 1) i := by
  refine ⟨by omega, fun p hk hp => ?_⟩
  obtain ⟨hl, hr⟩ := h.children_lt hk hp
  constructor
  · rintro rfl
    omega
  · rintro rfl
    omega

/-- The leaves and their weights determine the layout (R103). -/
theorem State.Layout.nodeAt_unique (h : s.Layout w ls m) (h' : t.Layout w ls m) :
    ∀ (n : Nat) (i : Idx), i.toNat = n → n < ls.length + m → t.nodeAt i = s.nodeAt i := by
  intro n
  induction n using Nat.strong_induction_on with
  | _ n ih =>
    rintro i rfl hi
    by_cases hk : i.toNat < ls.length
    · rw [h.nodeAt_leaf hk, h'.nodeAt_leaf hk]
    · obtain ⟨hmerge, -⟩ := h.nodeAt_merge (by omega) hi
      obtain ⟨hmerge', -⟩ := h'.nodeAt_merge (by omega) hi
      exact hmerge'.unique (hmerge.congr fun p hp => ih p.toNat (by omega) p rfl (by omega))

end

/-! ## The queue -/

/-- The queue `q` is in order and holds exactly the entries of the nodes that `P` names (R18, R94). -/
structure QueueOf (entry : Idx → QEntry) (P : Idx → Prop) (q : List QEntry) : Prop where
  ordered : QueueOrdered q
  mem : ∀ e : QEntry, e ∈ q ↔ ∃ i, P i ∧ e = entry i

section
variable {entry entry' : Idx → QEntry} {P P' : Idx → Prop} {q : List QEntry}

theorem QueueOf.insert (h : QueueOf entry P q) {r : Idx} (hseq : ∀ i, P i → (entry i).seq ≠ (entry' r).seq)
    (hentry : ∀ i, P i → entry' i = entry i) (hP : ∀ i, P' i ↔ i = r ∨ P i) :
    QueueOf entry' P' (insertEntry (entry' r) q) where
  ordered := insertEntry_queueOrdered h.ordered fun e he => by
    obtain ⟨i, hi, rfl⟩ := (h.mem e).1 he
    exact hseq i hi
  mem e := by
    rw [(insertEntry_perm _ q).mem_iff, List.mem_cons, h.mem]
    constructor
    · rintro (rfl | ⟨i, hi, rfl⟩)
      · exact ⟨r, (hP r).2 (.inl rfl), rfl⟩
      · exact ⟨i, (hP i).2 (.inr hi), (hentry i hi).symm⟩
    · rintro ⟨i, hi, rfl⟩
      rcases (hP i).1 hi with rfl | hi
      · exact .inl rfl
      · exact .inr ⟨i, hi, hentry i hi⟩

/-- The first entry of the queue is the least, and the rest holds the others. -/
theorem QueueOf.head {e : QEntry} (h : QueueOf entry P (e :: q)) (hidx : ∀ i, (entry i).idx = i) :
    P e.idx ∧ entry e.idx = e ∧ (∀ i, P i → i ≠ e.idx → e.before (entry i) = true) ∧
      QueueOf entry (fun i => P i ∧ i ≠ e.idx) q := by
  obtain ⟨hleast, hordered⟩ := List.pairwise_cons.1 h.ordered
  obtain ⟨i, hi, rfl⟩ := (h.mem e).1 List.mem_cons_self
  rw [hidx]
  have hrest (j : Idx) (hj : P j) (hne : j ≠ i) : entry j ∈ q := by
    refine (List.mem_cons.1 ((h.mem _).2 ⟨j, hj, rfl⟩)).resolve_left fun heq => hne ?_
    rw [← hidx j, heq, hidx]
  refine ⟨hi, rfl, fun j hj hne => hleast _ (hrest j hj hne), hordered, fun x => ⟨fun hx => ?_, ?_⟩⟩
  · obtain ⟨j, hj, rfl⟩ := (h.mem x).1 (List.mem_cons_of_mem _ hx)
    refine ⟨j, ⟨hj, ?_⟩, rfl⟩
    rintro rfl
    exact QEntry.before_asymm (hleast _ hx) (hleast _ hx)
  · rintro ⟨j, ⟨hj, hne⟩, rfl⟩
    exact hrest j hj hne

end

/-- The total weight of a queue. -/
def totalWeight (q : List QEntry) : Nat := (q.map fun e => e.weight.toNat).sum

theorem totalWeight_cons (e : QEntry) (q : List QEntry) : totalWeight (e :: q) = e.weight.toNat + totalWeight q := by
  rw [totalWeight, List.map_cons, List.sum_cons, totalWeight]

theorem totalWeight_insertEntry (e : QEntry) (q : List QEntry) :
    totalWeight (insertEntry e q) = e.weight.toNat + totalWeight q := by
  rw [← totalWeight_cons]
  exact ((insertEntry_perm e q).map _).sum_eq

/-! ## The invariant of the loader and the merger -/

/-- BUILD between two operations: over the leaves `ls` with the weights `w` it has made `m` merges, and the queue holds the
entries of the nodes without a parent, which share the total weight (R18, R93 to R96, R101). -/
structure State.Merging (w : Sym → Weight) (ls : List Sym) (m : Nat) (s : State) : Prop extends s.Layout w ls m where
  cfgWf : s.cfg.wf = true
  count : s.nodeCount.toNat = ls.length + m
  counter : s.work.m.toNat = m
  queue : QueueOf (s.entryOf ls.length) (s.Parentless ls.length m) s.pq
  remaining : s.pq.length + m = ls.length
  total : totalWeight s.pq = (ls.map fun x => (w x).toNat).sum

/-! ## The loader -/

theorem buildStart_merging {s : State} (hcfg : s.cfg.wf = true) (w : Sym → Weight) : (buildStart s).Merging w [] 0 where
  leaves j x hx := by simp at hx
  merges j hj := absurd hj (Nat.not_lt_zero j)
  cfgWf := hcfg
  count := rfl
  counter := rfl
  queue := ⟨.nil, fun e => ⟨fun he => absurd he List.not_mem_nil, fun ⟨i, hi, _⟩ => absurd hi.1 (Nat.not_lt_zero _)⟩⟩
  remaining := rfl
  total := rfl

/-- The state after the leaf of symbol `sym` was loaded (R93). -/
def State.withLeaf (sym : Nat) (v : Weight) (s : State) : State :=
  { s.grow (leafNode (BitVec.ofNat 9 sym) v) with
    pq := insertEntry { weight := v, seq := BitVec.ofNat 10 sym, idx := s.nodeCount } s.pq }

theorem withLeaf_nodeAt_new (sym : Nat) (v : Weight) (s : State) :
    (s.withLeaf sym v).nodeAt s.nodeCount = leafNode (BitVec.ofNat 9 sym) v := s.grow_nodeAt_new _

theorem withLeaf_nodeAt_old (sym : Nat) (v : Weight) (s : State) {i : Idx} (hi : i.toNat < s.nodeCount.toNat) :
    (s.withLeaf sym v).nodeAt i = s.nodeAt i := s.grow_nodeAt_old _ (by rintro rfl; omega)

theorem withLeaf_layout {w : Sym → Weight} {ls : List Sym} {s : State} (h : s.Layout w ls 0)
    (hcount : s.nodeCount.toNat = ls.length) (sym : Nat) :
    (s.withLeaf sym (w (BitVec.ofNat 9 sym))).Layout w (ls ++ [BitVec.ofNat 9 sym]) 0 where
  leaves j x hx := by
    rcases Nat.lt_or_ge j ls.length with hj | hj
    · rw [List.getElem?_append_left hj] at hx
      rw [withLeaf_nodeAt_old _ _ _ (by rw [toNat_ofNat_idx] <;> omega)]
      exact h.leaves j x hx
    · obtain ⟨hj', rfl⟩ := List.getElem?_eq_some_iff.1 hx
      rw [List.length_append, List.length_singleton] at hj'
      obtain rfl : j = ls.length := by omega
      rw [ofNat_eq_idx hcount, withLeaf_nodeAt_new]
      simp
  merges j hj := absurd hj (Nat.not_lt_zero j)

/-- Before the first merge the entry of a leaf is that of its symbol. -/
theorem withLeaf_entryOf_new {sym : Nat} (hsym : sym ≤ 256) (v : Weight) {s : State} {k : Nat} (hcount : s.nodeCount.toNat < k) :
    (s.withLeaf sym v).entryOf k s.nodeCount = { weight := v, seq := BitVec.ofNat 10 sym, idx := s.nodeCount } := by
  have hseq : (BitVec.ofNat 9 sym).setWidth 10 = BitVec.ofNat 10 sym := by
    refine BitVec.eq_of_toNat_eq ?_
    rw [BitVec.toNat_setWidth, BitVec.toNat_ofNat, BitVec.toNat_ofNat]
    omega
  rw [State.entryOf, withLeaf_nodeAt_new, if_pos hcount, leafNode, hseq]

theorem State.Layout.entryOf_leaf_seq {w : Sym → Weight} {ls : List Sym} {m : Nat} {s : State} (h : s.Layout w ls m) {i : Idx}
    (hi : i.toNat < ls.length) : (s.entryOf ls.length i).seq.toNat = ls[i.toNat].toNat := by
  rw [State.entryOf, if_pos hi, h.nodeAt_leaf hi, leafNode]
  exact BitVec.toNat_setWidth_of_le (by decide)

theorem withLeaf_merging {w : Sym → Weight} {ls : List Sym} {s : State} (h : s.Merging w ls 0) {sym : Nat} (hsym : sym ≤ 256)
    (hbelow : ∀ x ∈ ls, x.toNat < sym) (hlen : ls.length ≤ 256) :
    (s.withLeaf sym (w (BitVec.ofNat 9 sym))).Merging w (ls ++ [BitVec.ofNat 9 sym]) 0 := by
  have hcap := (Config.wf_bounds h.cfgWf).1
  have hcount : s.nodeCount.toNat = ls.length := h.count
  have hremaining := h.remaining
  have hlen' : (ls ++ [BitVec.ofNat 9 sym]).length = ls.length + 1 := by simp
  have hentry := withLeaf_entryOf_new hsym (w (BitVec.ofNat 9 sym)) (s := s) (k := ls.length + 1) (by omega)
  refine
    { toLayout := withLeaf_layout h.toLayout hcount sym
      cfgWf := h.cfgWf
      count := ?count
      counter := h.counter
      queue := ?queue
      remaining := ?remaining
      total := ?total }
  case count => exact (grow_count h.cfgWf (by omega) (leafNode (BitVec.ofNat 9 sym) (w (BitVec.ofNat 9 sym)))).trans (by omega)
  case remaining =>
    change (insertEntry _ s.pq).length + 0 = _
    rw [insertEntry_length]
    omega
  case total =>
    change totalWeight (insertEntry _ s.pq) = _
    rw [totalWeight_insertEntry, h.total, List.map_append, List.sum_append, Nat.add_comm]
    rfl
  case queue =>
    change QueueOf _ _ (insertEntry { weight := _, seq := BitVec.ofNat 10 sym, idx := s.nodeCount } s.pq)
    rw [hlen', ← hentry]
    refine h.queue.insert (fun i hi hseq => ?_) (fun i hi => ?_) (fun i => ?_)
    · have hi := State.parentless_zero.1 hi
      have hlt := hbelow _ (List.getElem_mem hi)
      have hseq := congrArg BitVec.toNat hseq
      rw [h.entryOf_leaf_seq hi, hentry, BitVec.toNat_ofNat] at hseq
      omega
    · have hi := State.parentless_zero.1 hi
      rw [State.entryOf, State.entryOf, withLeaf_nodeAt_old _ _ _ (by omega), if_pos hi, if_pos (Nat.lt_succ_of_lt hi)]
    · rw [State.parentless_zero, State.parentless_zero, ← BitVec.toNat_inj]
      omega

/-- What holds of the counts from symbol `sym` on, holds of the rest of them from the next symbol on. -/
theorem counts_tail {p : Nat → Count → Prop} {sym : Nat} {c : Count} {cs : List Count}
    (h : ∀ (i : Nat) (d : Count), (c :: cs)[i]? = some d → p (sym + i) d) (i : Nat) (d : Count) (hd : cs[i]? = some d) :
    p (sym + 1 + i) d := by
  rw [Nat.add_assoc, Nat.add_comm 1 i]
  exact h (i + 1) d hd

theorem loadLeaves_merging {w : Sym → Weight} (sym : Nat) (counts : List Count) {ls : List Sym} {s : State}
    (h : s.Merging w ls 0) (hbelow : ∀ x ∈ ls, x.toNat < sym) (hlen : ls.length + counts.length ≤ 257)
    (hsym : sym + counts.length ≤ 257)
    (hw : ∀ (i : Nat) (c : Count), counts[i]? = some c → w (BitVec.ofNat 9 (sym + i)) = c.setWidth 40) :
    ∃ t, loadLeaves sym counts s = .ok () t ∧ t.Merging w (ls ++ positiveFrom sym counts) 0 := by
  induction counts generalizing sym ls s with
  | nil => exact ⟨s, rfl, by simpa [positiveFrom] using h⟩
  | cons c cs ih =>
    rw [List.length_cons] at hlen hsym
    have hw' := counts_tail (p := fun n d => w (BitVec.ofNat 9 n) = d.setWidth 40) hw
    rw [loadLeaves, loadLeaf, positiveFrom]
    split
    · exact ih (sym + 1) h (fun x hx => Nat.lt_succ_of_lt (hbelow x hx)) (by omega) (by omega) hw'
    · have hcap := (Config.wf_bounds h.cfgWf).1
      have hcount : s.nodeCount.toNat = ls.length := h.count
      have hload := withLeaf_merging h (sym := sym) (by omega) hbelow (by omega)
      rw [show w (BitVec.ofNat 9 sym) = c.setWidth 40 from hw 0 c rfl] at hload
      have hbelow' : ∀ x ∈ ls ++ [BitVec.ofNat 9 sym], x.toNat < sym + 1 := fun x hx => by
        rcases List.mem_append.1 hx with hx | hx
        · exact Nat.lt_succ_of_lt (hbelow x hx)
        · rw [List.mem_singleton.1 hx, BitVec.toNat_ofNat]
          omega
      obtain ⟨t, ht, hmerging⟩ := ih (sym + 1) hload hbelow' (by rw [List.length_append, List.length_singleton]; omega)
        (by omega) hw'
      refine ⟨t, ?_, by rwa [List.append_assoc] at hmerging⟩
      rw [alloc_of_room _ (by omega), Res.bind_ok, Res.seq_ok]
      exact ht

/-! ## The merger -/

/-- Leaves that can be merged: symbols of R17, whose weights add up without wrapping (R101). -/
structure Mergeable (w : Sym → Weight) (ls : List Sym) : Prop extends BuiltLeaves ls where
  total_lt : (ls.map fun x => (w x).toNat).sum < 2 ^ 40

/-- The state after the merge of the entries `a` and `b`, with `q` left in the queue (R95, R96). -/
def State.withMerge (a b : QEntry) (q : List QEntry) (s : State) : State :=
  { s.grow (internalNode (a.weight + b.weight) a.idx b.idx) with
    pq := insertEntry { weight := a.weight + b.weight, seq := 257#10 + s.work.m.setWidth 10, idx := s.nodeCount } q
    work := { s.work with a := a, b := b, m := s.work.m + 1#9 } }

section
variable {s : State} {a b : QEntry} {q : List QEntry}

theorem mergeOnce_of_cons (h : s.pq = a :: b :: q) (hroom : s.nodeCount.toNat ≠ s.cfg.nodeCap) :
    mergeOnce s = .ok () (s.withMerge a b q) := by
  rw [mergeOnce, removeMin_of_cons h, Res.bind_ok, removeMin_of_cons (q := q) rfl, Res.bind_ok,
    alloc_of_room _ (by exact hroom)]
  rfl

theorem withMerge_nodeAt_new :
    (s.withMerge a b q).nodeAt s.nodeCount = internalNode (a.weight + b.weight) a.idx b.idx := s.grow_nodeAt_new _

theorem withMerge_nodeAt_old {i : Idx} (hi : i.toNat < s.nodeCount.toNat) :
    (s.withMerge a b q).nodeAt i = s.nodeAt i := s.grow_nodeAt_old _ (by rintro rfl; omega)

variable {w : Sym → Weight} {ls : List Sym} {m : Nat}

theorem withMerge_layout (h : s.Layout w ls m) (hcount : s.nodeCount.toNat = ls.length + m)
    (hmerge : s.IsExactMerge ls.length m (internalNode (a.weight + b.weight) a.idx b.idx)) :
    (s.withMerge a b q).Layout w ls (m + 1) := by
  have hold : (s.withMerge a b q).Layout w ls m := h.congr (by omega) fun p hp => withMerge_nodeAt_old (by omega)
  refine ⟨hold.leaves, fun j hj => ?_⟩
  rcases Nat.lt_succ_iff_lt_or_eq.1 hj with hj | rfl
  · exact hold.merges j hj
  · rw [ofNat_eq_idx hcount, withMerge_nodeAt_new]
    exact hmerge.congr fun p hp => withMerge_nodeAt_old (by omega)

/-- The first two entries of the queue are those that the next merge must take (R94, R95). -/
theorem State.Merging.next (h : s.Merging w ls m) (hls : Mergeable w ls) (hq : s.pq = a :: b :: q) :
    s.IsExactMerge ls.length m (internalNode (a.weight + b.weight) a.idx b.idx) ∧
      QueueOf (s.entryOf ls.length) (fun i => (s.Parentless ls.length m i ∧ i ≠ a.idx) ∧ i ≠ b.idx) q := by
  have hqueue := h.queue
  have htotal := h.total
  have hlt := hls.total_lt
  rw [hq] at hqueue htotal
  rw [totalWeight_cons, totalWeight_cons] at htotal
  obtain ⟨ha, hae, hleast, hrest⟩ := hqueue.head fun _ => rfl
  obtain ⟨⟨hb, hba⟩, hbe, hnext, hrest⟩ := hrest.head fun _ => rfl
  have haw : (s.nodeAt a.idx).weight = a.weight := congrArg QEntry.weight hae
  have hbw : (s.nodeAt b.idx).weight = b.weight := congrArg QEntry.weight hbe
  refine ⟨⟨⟨rfl, rfl, ?_, ha, hb, Ne.symm hba, fun i hi hia => ⟨?_, fun hib => ?_⟩⟩, ?_⟩, hrest⟩
  · change a.weight + b.weight = (s.nodeAt a.idx).weight + (s.nodeAt b.idx).weight
    rw [haw, hbw]
  · change (s.entryOf ls.length a.idx).before _ = true
    rw [hae]
    exact hleast i hi hia
  · change (s.entryOf ls.length b.idx).before _ = true
    rw [hbe]
    exact hnext i ⟨hi, hia⟩ hib
  · change (a.weight + b.weight).toNat = (s.nodeAt a.idx).weight.toNat + (s.nodeAt b.idx).weight.toNat
    rw [haw, hbw, BitVec.toNat_add, Nat.mod_eq_of_lt (by omega)]

/-- The sequence numbers given before merge `m` are those below `257 + m` (R94). -/
theorem State.Layout.entryOf_seq_lt (h : s.Layout w ls m) (hls : BuiltLeaves ls) (hm : m < ls.length) {i : Idx}
    (hi : i.toNat < ls.length + m) : (s.entryOf ls.length i).seq.toNat < 257 + m := by
  by_cases hk : i.toNat < ls.length
  · have hle := hls.le_eos _ (List.getElem_mem hk)
    rw [h.entryOf_leaf_seq hk]
    omega
  · rw [State.entryOf, if_neg hk, BitVec.toNat_ofNat]
    omega

/-- The node that merge `m` makes has the sequence number `257 + m` (R94). -/
theorem withMerge_entryOf_new (hcount : s.nodeCount.toNat = ls.length + m) (hcounter : s.work.m.toNat = m) :
    (s.withMerge a b q).entryOf ls.length s.nodeCount =
      { weight := a.weight + b.weight, seq := 257#10 + s.work.m.setWidth 10, idx := s.nodeCount } := by
  have hseq : BitVec.ofNat 10 (257 + (s.nodeCount.toNat - ls.length)) = 257#10 + s.work.m.setWidth 10 := by
    refine BitVec.eq_of_toNat_eq ?_
    rw [BitVec.toNat_ofNat, BitVec.toNat_add, BitVec.toNat_setWidth_of_le (by decide), hcounter, hcount,
      Nat.add_sub_cancel_left]
    rfl
  rw [State.entryOf, withMerge_nodeAt_new, if_neg (by omega), internalNode, hseq]

/-- After a merge its two children have a parent, and its node has none. -/
theorem withMerge_parentless (h : (s.withMerge a b q).Layout w ls (m + 1)) (hcount : s.nodeCount.toNat = ls.length + m)
    {i : Idx} :
    (s.withMerge a b q).Parentless ls.length (m + 1) i ↔
      i = s.nodeCount ∨ (s.Parentless ls.length m i ∧ i ≠ a.idx) ∧ i ≠ b.idx := by
  have hold (i : Idx) : (s.withMerge a b q).Parentless ls.length m i ↔ s.Parentless ls.length m i :=
    State.parentless_congr (fun p hp => withMerge_nodeAt_old (by omega)) i
  rcases Nat.lt_trichotomy i.toNat (ls.length + m) with hi | hi | hi
  · have hne : i ≠ s.nodeCount := by
      rintro rfl
      omega
    rw [State.parentless_succ hcount hi, hold, withMerge_nodeAt_new]
    simp only [internalNode, hne, false_or, and_assoc, ne_comm]
  · exact iff_of_true (h.parentless_last hi) (.inl (BitVec.eq_of_toNat_eq (hi.trans hcount.symm)))
  · refine iff_of_false (fun hp => ?_) ?_
    · have := hp.1
      omega
    · rintro (rfl | ⟨⟨hp, -⟩, -⟩)
      · omega
      · have := hp.1
        omega

/-- A merge takes two entries from the queue and puts one into it. -/
theorem withMerge_merging (h : s.Merging w ls m) (hls : Mergeable w ls) (hq : s.pq = a :: b :: q) :
    (s.withMerge a b q).Merging w ls (m + 1) := by
  obtain ⟨hmerge, hrest⟩ := h.next hls hq
  have hcap := (Config.wf_bounds h.cfgWf).1
  have hlen := hls.length_le
  have hcount := h.count
  have hcounter := h.counter
  have hremaining := h.remaining
  rw [hq, List.length_cons, List.length_cons] at hremaining
  have hlayout : (s.withMerge a b q).Layout w ls (m + 1) := withMerge_layout h.toLayout hcount hmerge
  have hentry := withMerge_entryOf_new (a := a) (b := b) (q := q) hcount hcounter
  refine
    { toLayout := hlayout
      cfgWf := h.cfgWf
      count := ?count
      counter := ?counter
      queue := ?queue
      remaining := ?remaining
      total := ?total }
  case count =>
    exact (grow_count h.cfgWf (by omega) (internalNode (a.weight + b.weight) a.idx b.idx)).trans (by omega)
  case counter =>
    change (s.work.m + 1#9).toNat = m + 1
    rw [BitVec.toNat_add, hcounter]
    exact Nat.mod_eq_of_lt (by simp; omega)
  case remaining =>
    change (insertEntry _ q).length + (m + 1) = _
    rw [insertEntry_length]
    omega
  case total =>
    have htotal := h.total
    have hlt := hls.total_lt
    rw [hq, totalWeight_cons, totalWeight_cons] at htotal
    change totalWeight (insertEntry _ q) = _
    rw [totalWeight_insertEntry, BitVec.toNat_add, Nat.mod_eq_of_lt (by omega)]
    omega
  case queue =>
    change QueueOf _ _ (insertEntry { weight := _, seq := 257#10 + s.work.m.setWidth 10, idx := s.nodeCount } q)
    rw [← hentry]
    refine hrest.insert (fun i hi hseq => ?_) (fun i hi => ?_) (fun i => ?_)
    · have hlt := h.entryOf_seq_lt hls.toBuiltLeaves (by omega) hi.1.1.1
      rw [hseq, hentry] at hlt
      have hnum : (257#10 + s.work.m.setWidth 10).toNat = 257 + m := by
        rw [BitVec.toNat_add, BitVec.toNat_setWidth_of_le (by decide), hcounter]
        exact Nat.mod_eq_of_lt (by simp; omega)
      exact absurd hlt (by rw [hnum]; omega)
    · have hi := hi.1.1.1
      exact State.entryOf_congr _ (withMerge_nodeAt_old (by omega))
    · exact withMerge_parentless hlayout hcount

end

/-- The merger makes one merge fewer than there are leaves (R97). -/
theorem mergeLoop_merging (bound : Nat) {w : Sym → Weight} {ls : List Sym} {m : Nat} {s : State} (h : s.Merging w ls m)
    (hls : Mergeable w ls) (hm : m < ls.length) (hb : ls.length ≤ bound + m + 1) :
    ∃ t, mergeLoop bound s = .ok () t ∧ t.Merging w ls (ls.length - 1) := by
  have hremaining := h.remaining
  induction bound generalizing m s with
  | zero =>
    obtain rfl : m = ls.length - 1 := by omega
    exact ⟨s, rfl, h⟩
  | succ bound ih =>
    unfold mergeLoop
    split
    · next hmany =>
      obtain ⟨a, b, q, hq⟩ : ∃ a b q, s.pq = a :: b :: q := by
        match hq : s.pq, hmany with
        | a :: b :: q, _ => exact ⟨a, b, q, rfl⟩
      have hcap := (Config.wf_bounds h.cfgWf).1
      have hlen := hls.length_le
      have hcount := h.count
      have hnext := withMerge_merging h hls hq
      obtain ⟨t, ht, hmerging⟩ := ih hnext (by omega) (by omega) hnext.remaining
      exact ⟨t, by rw [mergeOnce_of_cons hq (by omega), Res.seq_ok, ht], hmerging⟩
    · obtain rfl : m = ls.length - 1 := by omega
      exact ⟨s, rfl, h⟩

/-! ## The arena that BUILD leaves -/

/-- The arena after BUILD of two or more leaves: all merges are made, and the node made last is the root (R97, R99, R102). -/
structure State.LaidOut (w : Sym → Weight) (ls : List Sym) (s : State) : Prop extends s.Layout w ls (ls.length - 1) where
  count : s.nodeCount.toNat = 2 * ls.length - 1
  root : s.root.toNat = 2 * ls.length - 2
  rootWeight : (s.nodeAt s.root).weight.toNat = (ls.map fun x => (w x).toNat).sum
  queue : s.pq = []

theorem mergeAll_laidOut {w : Sym → Weight} {ls : List Sym} {s : State} (h : s.Merging w ls 0) (hls : Mergeable w ls)
    (h2 : 2 ≤ ls.length) : ∃ t, mergeAll s = .ok () t ∧ t.LaidOut w ls := by
  have hremaining := h.remaining
  obtain ⟨t, ht, hmerging⟩ := mergeLoop_merging s.pq.length h hls (by omega) (by omega)
  have hone := hmerging.remaining
  obtain ⟨e, hq⟩ := List.length_eq_one_iff.1 (show t.pq.length = 1 by omega)
  have hlayout := hmerging.toLayout
  have hqueue := hmerging.queue
  have htotal := hmerging.total
  have hcount := hmerging.count
  rw [hq] at hqueue htotal
  obtain ⟨k, hk⟩ : ∃ k, ls.length - 1 = k + 1 := ⟨ls.length - 2, by omega⟩
  have hlast : (BitVec.ofNat 10 (ls.length + k)).toNat = ls.length + k := toNat_ofNat_idx (by omega)
  have hroot : t.entryOf ls.length (BitVec.ofNat 10 (ls.length + k)) = e := by
    rw [hk] at hlayout hqueue
    exact List.mem_singleton.1 ((hqueue.mem _).2 ⟨_, hlayout.parentless_last hlast, rfl⟩)
  refine ⟨{ t with pq := [], root := e.idx, work := { t.work with a := e } }, ?_, ?_⟩
  · rw [mergeAll, ht, Res.seq_ok, removeMin_of_cons hq, Res.bind_ok]
  · exact
      { toLayout := hlayout.of_node rfl
        count := hcount.trans (by omega)
        root := by
          rw [← hroot]
          exact hlast.trans (by omega)
        rootWeight := by
          rw [totalWeight_cons] at htotal
          rw [← htotal, ← hroot]
          rfl
        queue := rfl }

/-- The arena after BUILD of a lone end-of-stream symbol, with the placeholder `p` (R98). -/
structure State.Wrapped (p : Sym) (s : State) : Prop where
  real : s.nodeAt 0#10 = leafNode eosSym 1#40
  placeholder : s.nodeAt 1#10 = leafNode p 0#40
  wrapper : s.nodeAt 2#10 = internalNode 1#40 0#10 1#10
  count : s.nodeCount = 3#10
  root : s.root = 2#10
  queue : s.pq = []

theorem wrap_wrapped {s : State} (hcount : s.nodeCount = 1#10) (hleaf : s.nodeAt 0#10 = leafNode eosSym 1#40) (hq : s.pq = []) :
    State.Wrapped s.cfg.placeholderSym { s.wrap 0#10 1#40 with root := s.nodeCount + 1#10 } where
  real := by
    refine (State.grow_nodeAt_old _ _ ?_).trans ((s.grow_nodeAt_old _ ?_).trans hleaf)
    · change 0#10 ≠ s.nodeCount + 1#10
      rw [hcount]
      decide
    · rw [hcount]
      decide
  placeholder := by
    have hnew := s.grow_nodeAt_new (leafNode s.cfg.placeholderSym 0#40)
    rw [hcount] at hnew
    refine (State.grow_nodeAt_old _ _ ?_).trans hnew
    change 1#10 ≠ s.nodeCount + 1#10
    rw [hcount]
    decide
  wrapper := by
    have hnew := (s.grow (leafNode s.cfg.placeholderSym 0#40)).grow_nodeAt_new (internalNode 1#40 0#10 s.nodeCount)
    change (s.wrap 0#10 1#40).nodeAt (s.nodeCount + 1#10) = _ at hnew
    rwa [hcount] at hnew
  count := by
    change s.nodeCount + 1#10 + 1#10 = _
    rw [hcount]
    rfl
  root := by
    rw [hcount]
    rfl
  queue := hq

theorem degenerate_wrapped {w : Sym → Weight} {s : State} (h : s.Merging w [eosSym] 0) (hw : w eosSym = 1#40) :
    ∃ t, degenerate s = .ok () t ∧ t.Wrapped s.cfg.placeholderSym := by
  obtain ⟨hcap, hcap', -⟩ := Config.wf_bounds h.cfgWf
  have hcount : s.nodeCount = 1#10 := BitVec.eq_of_toNat_eq h.count
  have hleaf : s.nodeAt 0#10 = leafNode eosSym 1#40 := hw ▸ h.leaves 0 eosSym rfl
  have hremaining : s.pq.length = 1 := h.remaining
  obtain ⟨e, hq⟩ := List.length_eq_one_iff.1 hremaining
  have hqueue := h.queue
  rw [hq] at hqueue
  have hentry : s.entryOf 1 0#10 = e :=
    List.mem_singleton.1 ((hqueue.mem _).2 ⟨0#10, State.parentless_zero.2 Nat.zero_lt_one, rfl⟩)
  have hidx : e.idx = 0#10 := by rw [← hentry]; rfl
  have hweight : e.weight = 1#40 := by
    rw [← hentry, State.entryOf, hleaf]
    rfl
  have hwrap := wrap_wrapped (s := { s with pq := [], work := { s.work with a := e } }) hcount hleaf rfl
  have hroom : s.nodeCount.toNat + 1 < s.cfg.nodeCap := by
    rw [hcount]
    exact Nat.lt_of_lt_of_le (by decide) hcap
  refine ⟨_, ?_, hwrap⟩
  rw [degenerate, removeMin_of_cons hq, Res.bind_ok, hidx, hweight]
  exact wrap_completes (s := { s with pq := [], work := { s.work with a := e } }) hroom hcap' 0#10 1#40

/-! ## BUILD -/

/-- The weight that BUILD gives the leaf of a symbol (R93). -/
def State.leafWeight (s : State) (x : Sym) : Weight := (s.freqAt x.toNat).setWidth 40

theorem leafWeight_counts (s : State) {i : Nat} {c : Count} (h : s.counts[i]? = some c) :
    s.leafWeight (BitVec.ofNat 9 (0 + i)) = c.setWidth 40 := by
  have hi : i < 257 := counts_length s ▸ (List.getElem?_eq_some_iff.1 h).1
  rw [counts_getElem? s hi] at h
  rw [State.leafWeight, BitVec.toNat_ofNat, Nat.zero_add, Nat.mod_eq_of_lt (by omega), Option.some.inj h]

/-- Symbols that are not counted add nothing to the total weight. -/
theorem positiveFrom_total {w : Sym → Weight} (sym : Nat) (counts : List Count)
    (hw : ∀ (i : Nat) (c : Count), counts[i]? = some c → w (BitVec.ofNat 9 (sym + i)) = c.setWidth 40) :
    ((positiveFrom sym counts).map fun x => (w x).toNat).sum = (counts.map BitVec.toNat).sum := by
  induction counts generalizing sym with
  | nil => rfl
  | cons c cs ih =>
    have htail := ih (sym + 1) (counts_tail (p := fun n d => w (BitVec.ofNat 9 n) = d.setWidth 40) hw)
    have hhead : w (BitVec.ofNat 9 sym) = c.setWidth 40 := hw 0 c rfl
    rw [positiveFrom, List.map_cons, List.sum_cons]
    split
    · next hzero => rw [htail, hzero, BitVec.toNat_zero, Nat.zero_add]
    · rw [List.map_cons, List.sum_cons, htail, hhead, BitVec.toNat_setWidth_of_le (by decide)]

/-- The 256 stored counters and the hardwired 1 add up to less than the weights can hold (R101). -/
theorem counts_total_lt (s : State) : (s.counts.map BitVec.toNat).sum < 2 ^ 40 := by
  have hstored : (s.freq.toList.map BitVec.toNat).sum ≤ (s.freq.toList.map BitVec.toNat).length • (2 ^ 32 - 1) := by
    refine List.sum_le_card_nsmul _ _ fun n hn => ?_
    obtain ⟨c, -, rfl⟩ := List.mem_map.1 hn
    omega
  rw [List.length_map, Vector.length_toList, smul_eq_mul] at hstored
  rw [State.counts, List.map_append, List.sum_append]
  simp only [List.map_singleton, List.sum_singleton, BitVec.toNat_ofNat]
  omega

theorem positive_mergeable (s : State) : Mergeable s.leafWeight (positiveFrom 0 s.counts) where
  toBuiltLeaves := builtLeaves_positive s
  total_lt := by
    rw [positiveFrom_total 0 s.counts fun i c h => leafWeight_counts s h]
    exact counts_total_lt s

/-- The loader makes the leaves of the positive symbols (R93). -/
theorem buildStart_loads {s : State} (hcfg : s.cfg.wf = true) :
    ∃ t, loadLeaves 0 s.counts (buildStart s) = .ok () t ∧ t.Merging s.leafWeight (positiveFrom 0 s.counts) 0 := by
  have hlen := counts_length s
  exact loadLeaves_merging 0 s.counts (buildStart_merging hcfg s.leafWeight) (by simp) (by simp [hlen]) (by omega)
    fun i c h => leafWeight_counts s h

theorem buildBody_laidOut {s : State} (hcfg : s.cfg.wf = true) (h2 : 2 ≤ (positiveFrom 0 s.counts).length) :
    ∃ t, buildBody s = .ok () t ∧ t.LaidOut s.leafWeight (positiveFrom 0 s.counts) := by
  obtain ⟨t, ht, hload⟩ := buildStart_loads hcfg
  have hremaining := hload.remaining
  obtain ⟨u, hu, hout⟩ := mergeAll_laidOut hload (positive_mergeable s) h2
  refine ⟨buildEnd u, ?_, ?_⟩
  · rw [buildBody_eq, buildArena, ht, Res.seq_ok, if_neg (by omega), hu, Res.seq_ok]
  · exact { hout with toLayout := hout.toLayout.of_node rfl }

theorem buildBody_wrapped {s : State} (hcfg : s.cfg.wf = true) (h1 : positiveFrom 0 s.counts = [eosSym]) :
    ∃ t, buildBody s = .ok () t ∧ t.Wrapped s.cfg.placeholderSym := by
  obtain ⟨t, ht, hload⟩ := buildStart_loads hcfg
  have htcfg : t.cfg = s.cfg := by
    have hkept := (loadLeaves_part 0 s.counts id id (buildStart s)).kept
    rw [ht] at hkept
    exact (congrArg State.cfg hkept.1 :)
  rw [h1] at hload
  have hremaining : t.pq.length = 1 := hload.remaining
  have hweight : s.leafWeight eosSym = 1#40 := by
    rw [State.leafWeight]
    exact congrArg _ (freqAt_eos s)
  obtain ⟨u, hu, hwrapped⟩ := degenerate_wrapped hload hweight
  refine ⟨buildEnd u, ?_, ?_⟩
  · rw [buildBody_eq, buildArena, ht, Res.seq_ok, if_pos hremaining, hu, Res.seq_ok]
  · rw [← htcfg]
    exact { hwrapped with }

end Sys2Proof.Machine
end

section
/-!
PROOF of O29 to O33: an idle CORE with counts runs the body of BUILD to its end, and `buildBody_laidOut` and `buildBody_wrapped` say
what the arena holds then (spec/41_tree_builder.md R92 to R103).
-/
namespace Sys2Proof.Machine

/-! ## The positive symbols -/

theorem positiveFrom_map_toNat (s : State) (sym : Nat) (counts : List Count) (hn : sym + counts.length ≤ 257)
    (h : ∀ (i : Nat) (c : Count), counts[i]? = some c → s.freqAt (sym + i) = c) :
    (positiveFrom sym counts).map BitVec.toNat =
      (List.range' sym counts.length).filter fun x => decide (s.freqAt x ≠ 0#32) := by
  induction counts generalizing sym with
  | nil => rfl
  | cons c cs ih =>
    rw [List.length_cons] at hn
    have htail := ih (sym + 1) (by omega) (counts_tail (p := fun n d => s.freqAt n = d) h)
    have hhead : s.freqAt sym = c := h 0 c rfl
    rw [positiveFrom, List.length_cons, List.range'_succ]
    split
    · next hc => rw [htail, List.filter_cons_of_neg (by simp [hhead, hc])]
    · next hc =>
      rw [List.filter_cons_of_pos (by simp [hhead, hc]), List.map_cons, htail, BitVec.toNat_ofNat, Nat.mod_eq_of_lt (by omega)]

/-- The positive symbols are the symbols that the loader makes leaves of (R93). -/
theorem positive_eq (s : State) : s.positive = (positiveFrom 0 s.counts).map BitVec.toNat := by
  have hlen := counts_length s
  rw [positiveFrom_map_toNat s 0 s.counts (by omega), hlen, State.positive, List.range_eq_range']
  intro i c hc
  have hi : i < 257 := hlen ▸ (List.getElem?_eq_some_iff.1 hc).1
  rw [counts_getElem? s hi] at hc
  rw [Nat.zero_add, Option.some.inj hc]

theorem positive_length (s : State) : s.positive.length = (positiveFrom 0 s.counts).length := by
  rw [positive_eq, List.length_map]

/-- A single positive symbol is the end-of-stream symbol (R98). -/
theorem positiveFrom_eq_eos {s : State} (h : (positiveFrom 0 s.counts).length = 1) : positiveFrom 0 s.counts = [eosSym] := by
  obtain ⟨x, hx⟩ := List.length_eq_one_iff.1 h
  have hmem := (builtLeaves_positive s).eos
  rw [hx] at hmem ⊢
  rw [List.mem_singleton.1 hmem]

/-- There are two or more positive symbols, or only that of the end of the stream. -/
theorem positive_cases (s : State) : 2 ≤ (positiveFrom 0 s.counts).length ∨ positiveFrom 0 s.counts = [eosSym] := by
  have hpos := List.length_pos_of_mem (builtLeaves_positive s).eos
  by_cases h1 : (positiveFrom 0 s.counts).length = 1
  · exact .inr (positiveFrom_eq_eos h1)
  · exact .inl (by omega)

/-- With no byte counted only the end-of-stream symbol is positive (R98). -/
theorem positiveFrom_of_no_byte {s : State} (h : ∀ x : BitVec 8, s.freqAt x.toNat = 0#32) :
    positiveFrom 0 s.counts = [eosSym] := by
  have hmem (y : Sym) : y ∈ positiveFrom 0 s.counts ↔ y ∈ [eosSym] := by
    rw [mem_positive_iff (words := []) fun x => by rw [h]; rfl]
    simp
  have hnodup := (builtLeaves_positive s).nodup
  exact List.perm_singleton.1 ((List.perm_ext_iff_of_nodup hnodup (List.nodup_singleton _)).2 hmem)

/-! ## The command -/

section
variable {s t : State} (hcfg : s.cfg.wf = true) (hi : s.isIdle) (hf : s.freqValid = true)
include hcfg hi hf

theorem exec_build_completes :
    ∃ u tr, exec .build s = .next u.complete ∧ State.ArenaWritten (buildEnd (buildStart (s.start noMacro))) u ∧
      u.complete.HoldsTree tr ∧ tr.leaves.Perm s.leavesToBuild := by
  obtain ⟨u, tr, hu, hw, ⟨⟨is, hs, ha⟩, hint, hroom⟩, hp⟩ := buildBody_completes (s := s.start noMacro) hcfg
  exact ⟨u, tr, accept_of_ok hi hf hu, hw, ⟨⟨is, hs.frame fun _ _ => rfl, ha⟩, hint, hroom⟩, hp⟩

theorem exec_build_laidOut (h2 : 2 ≤ (positiveFrom 0 s.counts).length) (h : exec .build s = .next t) :
    t.LaidOut s.leafWeight (positiveFrom 0 s.counts) := by
  obtain ⟨u, hu, hout⟩ := buildBody_laidOut (s := s.start noMacro) hcfg h2
  obtain rfl := Host.Outcome.next.inj (h.symm.trans (accept_of_ok hi hf hu))
  exact { hout with toLayout := hout.toLayout.of_node rfl }

theorem exec_build_wrapped (h1 : positiveFrom 0 s.counts = [eosSym]) (h : exec .build s = .next t) :
    t.Wrapped s.cfg.placeholderSym := by
  obtain ⟨u, hu, hwrapped⟩ := buildBody_wrapped (s := s.start noMacro) hcfg h1
  obtain rfl := Host.Outcome.next.inj (h.symm.trans (accept_of_ok hi hf hu))
  exact { hwrapped with }

end

/-- The tree of the degenerate case (R98). -/
theorem State.Wrapped.tree {p : Sym} {t : State} (h : t.Wrapped p) : t.tree = some (.internal (.leaf eosSym) (.leaf p)) := by
  have hreal : t.Subtree 0#10 (.leaf eosSym) [0#10] := .leaf (by rw [h.real]; rfl) (by rw [h.real]; rfl)
  have hplace : t.Subtree 1#10 (.leaf p) [1#10] := .leaf (by rw [h.placeholder]; rfl) (by rw [h.placeholder]; rfl)
  have hsub : t.Subtree 2#10 (.internal (.leaf eosSym) (.leaf p)) (2#10 :: ([0#10] ++ [1#10])) :=
    .internal (by rw [h.wrapper]; rfl) (by rw [h.wrapper]; exact hreal) (by rw [h.wrapper]; exact hplace)
  rw [State.tree, h.root]
  exact (hsub.views (show (3 : Nat) ≤ arenaSize by decide)).1

/-- The entries of the degenerate case are its three nodes. -/
theorem State.Wrapped.entry_cases {p : Sym} {t : State} (h : t.Wrapped p) {i : Idx} (hi : i.toNat < t.nodeCount.toNat) :
    i = 0#10 ∨ i = 1#10 ∨ i = 2#10 := by
  have hlt : i.toNat < 3 := by rwa [h.count] at hi
  simp only [← BitVec.toNat_inj, BitVec.toNat_ofNat]
  omega

/-! ## The obligations -/

/-- Settles O29: only the end-of-stream symbol is positive, so the loader leaves one entry and BUILD wraps it. -/
theorem buildWrapsALoneLeaf : Obligations.BuildWrapsALoneLeaf := by
  unfold Obligations.BuildWrapsALoneLeaf
  intro s hcfg hi hf hzero
  obtain ⟨u, tr, hexec, ⟨_, _, _, _, _, hu⟩, -, -⟩ := exec_build_completes hcfg hi hf
  have hw := exec_build_wrapped hcfg hi hf (positiveFrom_of_no_byte hzero) hexec
  exact ⟨u.complete, hexec, hw.real, hw.placeholder, hw.wrapper, hw.root, hw.count, hw.tree, by rw [hu]; rfl, hw.queue⟩

/-- Settles O30: the loader and the merger keep `State.Merging`, whose layout is the one stated. -/
theorem buildLaysOutTheArena : Obligations.BuildLaysOutTheArena := by
  unfold Obligations.BuildLaysOutTheArena
  intro s hcfg hi hf h2
  rw [positive_length] at h2 ⊢
  obtain ⟨u, tr, hexec, ⟨_, _, _, _, _, hu⟩, -, -⟩ := exec_build_completes hcfg hi hf
  have hout := exec_build_laidOut hcfg hi hf h2 hexec
  have hcount := hout.count
  refine ⟨u.complete, hexec, hcount, hout.root, fun j x hx => ?_, fun j hj => (hout.merges j (by omega)).1, fun i hk hlt => ?_,
    by rw [hu]; rfl, by rw [hu]; rfl, by rw [hu]; rfl, by rw [hu]; rfl, rfl, ⟨rfl, rfl⟩, hout.queue⟩
  · rw [positive_eq, List.getElem?_map, Option.map_eq_some_iff] at hx
    obtain ⟨y, hy, rfl⟩ := hx
    rw [BitVec.ofNat_toNat, BitVec.setWidth_eq]
    exact hout.leaves j y hy
  · obtain ⟨⟨hleaf, -⟩, -⟩ := hout.nodeAt_merge hk (by omega)
    exact ⟨hleaf, hout.children_lt hk (by omega)⟩

/-- Settles O31: the queue keeps the total weight, which the weights can hold, so no merge wraps. -/
theorem buildAddsTheWeights : Obligations.BuildAddsTheWeights := by
  unfold Obligations.BuildAddsTheWeights
  intro s t hcfg hi hf h
  have htotal := positiveFrom_total 0 s.counts fun i c hc => leafWeight_counts s hc
  rcases positive_cases s with h2 | h1
  · have hout := exec_build_laidOut hcfg hi hf h2 h
    have hcount := hout.count
    exact ⟨hout.rootWeight.trans htotal, fun i hlt hint => (hout.nodeAt_merge (hout.le_of_internal hint) (by omega)).2⟩
  · have hw := exec_build_wrapped hcfg hi hf h1 h
    have hone : (s.leafWeight eosSym).toNat = 1 := by
      rw [State.leafWeight]
      exact congrArg (fun c : Count => (c.setWidth 40).toNat) (freqAt_eos s)
    rw [h1] at htotal
    refine ⟨?_, fun i hlt hint => ?_⟩
    · rw [← htotal, hw.root, hw.wrapper]
      exact hone.symm
    · rcases hw.entry_cases hlt with rfl | rfl | rfl
      · rw [hw.real] at hint
        cases hint
      · rw [hw.placeholder] at hint
        cases hint
      · rw [hw.wrapper]
        change 1 = (t.nodeAt 0#10).weight.toNat + (t.nodeAt 1#10).weight.toNat
        rw [hw.real, hw.placeholder]
        rfl

/-- Settles O32: the arena holds a tree whose leaves are those to build, and in the degenerate case it is known. -/
theorem buildMakesOneLeafPerSymbol : Obligations.BuildMakesOneLeafPerSymbol := by
  unfold Obligations.BuildMakesOneLeafPerSymbol
  intro s t hcfg hi hf h
  obtain ⟨u, tr, hexec, -, hholds, hperm⟩ := exec_build_completes hcfg hi hf
  obtain rfl := Host.Outcome.next.inj (h.symm.trans hexec)
  obtain ⟨htree, -, hsize⟩ := hholds.views
  refine ⟨tr, htree, hholds.isInternal, hsize, fun h2 => ?_, fun h1 => ?_⟩
  · rw [positive_length] at h2
    have hne : positiveFrom 0 s.counts ≠ [eosSym] := fun e => by
      rw [e] at h2
      exact absurd h2 (by decide)
    rw [State.leavesToBuild, if_neg hne] at hperm
    rw [positive_eq]
    exact hperm.map _
  · rw [positive_length] at h1
    have hw := exec_build_wrapped hcfg hi hf (positiveFrom_eq_eos h1) h
    obtain rfl := Option.some.inj (htree.symm.trans hw.tree)
    rfl

/-- Settles O33: the counts give the leaves and their weights, and these determine the layout. -/
theorem buildDependsOnTheCountsOnly : Obligations.BuildDependsOnTheCountsOnly := by
  unfold Obligations.BuildDependsOnTheCountsOnly
  intro s s' t t' hcc hcfg hfreq hi hi' hf hf' h h'
  have hcounts : s'.counts = s.counts := by rw [State.counts, State.counts, hfreq]
  have hweight : s'.leafWeight = s.leafWeight := by
    funext x
    rw [State.leafWeight, State.leafWeight, State.freqAt, State.freqAt, hfreq]
  have hcfg' : s'.cfg.wf = true := hcc ▸ hcfg
  rcases positive_cases s with h2 | h1
  · have hout := exec_build_laidOut hcfg hi hf h2 h
    have hout' := exec_build_laidOut hcfg' hi' hf' (hcounts ▸ h2) h'
    rw [hcounts, hweight] at hout'
    have hcount := hout.count
    refine ⟨BitVec.eq_of_toNat_eq (hcount.trans hout'.count.symm), BitVec.eq_of_toNat_eq (hout.root.trans hout'.root.symm),
      fun i hlt => ?_⟩
    exact hout'.toLayout.nodeAt_unique hout.toLayout i.toNat i rfl (by omega)
  · have hw := exec_build_wrapped hcfg hi hf h1 h
    have hw' := exec_build_wrapped hcfg' hi' hf' (hcounts ▸ h1) h'
    refine ⟨hw.count.trans hw'.count.symm, hw.root.trans hw'.root.symm, fun i hlt => ?_⟩
    rcases hw.entry_cases hlt with rfl | rfl | rfl
    · rw [hw.real, hw'.real]
    · rw [hw.placeholder, hw'.placeholder, hcc]
    · rw [hw.wrapper, hw'.wrapper]

end Sys2Proof.Machine
end

section
/-!
PROOF of O35 (GencodesRecordsThePaths), O36 (ValidCodesArePrefixFree) and O37 (ValidCodesAreComplete): the walk leaves no bit of a
code above its length; no code of a tree begins another and together they fill the code space; in a run the valid code table is
that of a tree (spec/42_code_table_generator.md R106 to R112).
-/
namespace Sys2Proof.Machine

/-! ## GENCODES -/

/-- No code has a bit above its length: `code_bits` is right-aligned (R19). -/
def State.CodesFit (s : State) : Prop := ∀ x : Nat, (s.codeBitsAt x).toNat < 2 ^ (s.codeLenAt x).toNat

theorem gencodesStart_codesFit (s : State) : (gencodesStart s).CodesFit := fun x => by
  have h : (gencodesStart s).codeBitsAt x = 0#256 := by
    simp only [State.codeBitsAt, gencodesStart, Vector.getElem?_replicate]
    split <;> rfl
  rw [h]
  exact Nat.two_pow_pos _

theorem State.CodesFit.setCode {s : State} (h : s.CodesFit) {sym : Sym} (hle : sym.toNat ≤ 256) {len : Len}
    {bits : CodeBits} (hb : bits.toNat < 2 ^ len.toNat) : (s.setCode sym len bits).CodesFit := fun x => by
  have hsym : sym.toNat < alphabet := Nat.lt_succ_of_le hle
  rw [codeBitsAt_setCode s sym len bits x hsym, codeLenAt_setCode s sym len bits x hsym]
  split
  · exact hb
  · exact h x

/-- One step down: the path and its length grow by one (R107). -/
theorem shiftLeft_one_lt {bits : CodeBits} {n : Nat} (h : bits.toNat < 2 ^ n) : (bits <<< 1).toNat < 2 ^ (n + 1) := by
  rw [BitVec.toNat_shiftLeft, Nat.shiftLeft_eq]
  have := Nat.mod_le (bits.toNat * 2 ^ 1) (2 ^ 256)
  omega

theorem shiftLeft_one_or_one_lt {bits : CodeBits} {n : Nat} (h : bits.toNat < 2 ^ n) :
    ((bits <<< 1) ||| 1#256).toNat < 2 ^ (n + 1) := by
  rw [BitVec.toNat_or]
  exact Nat.or_lt_two_pow (shiftLeft_one_lt h) (Nat.one_lt_two_pow (Nat.succ_ne_zero n))

/-- `Walk` (R107) writes the path register, which holds no bit above the path's length. -/
theorem walk_codesFit {s₀ : State} {i : Idx} {t : Tree} {is : List Idx} (ht : s₀.Subtree i t is)
    (hle : ∀ x ∈ t.leaves, x.toNat ≤ 256) (bound : Nat) {len : Len} {bits : CodeBits}
    (hlen : len.toNat + t.leaves.length ≤ 257) (hb : bits.toNat < 2 ^ len.toNat) {s : State} (hs : s₀.CodesWritten s)
    (hfit : s.CodesFit) : (walk bound i len bits s).Ends fun u => s₀.CodesWritten u ∧ u.CodesFit := by
  induction ht generalizing bound len bits s with
  | @leaf i sym hl hsym =>
    cases bound with
    | zero => exact ⟨hs, hfit⟩
    | succ bound =>
      have hnode : (s.setPath len bits).nodeAt i = s₀.nodeAt i := hs.nodeAt i
      simp only [walk, hnode, hl, hsym, if_true]
      exact ⟨hs.trans ⟨_, _, _, rfl⟩, State.CodesFit.setCode hfit (hle sym (List.mem_singleton_self _)) hb⟩
  | @internal i l r ls rs hl _ _ ihl ihr =>
    cases bound with
    | zero => exact ⟨hs, hfit⟩
    | succ bound =>
      have hnode : (s.setPath len bits).nodeAt i = s₀.nodeAt i := hs.nodeAt i
      simp only [walk, hnode, hl, Bool.false_eq_true, if_false]
      simp only [Tree.leaves, List.length_append] at hle hlen
      have hposl := l.leaves_length_pos
      have hposr := r.leaves_length_pos
      have hlen' : (len + 1#9).toNat = len.toNat + 1 := by
        rw [BitVec.toNat_add]
        exact Nat.mod_eq_of_lt (by simp; omega)
      have hpath : s₀.CodesWritten (s.setPath len bits) := hs.trans ⟨_, _, _, rfl⟩
      have hleft : (bits <<< 1).toNat < 2 ^ (len + 1#9).toNat := hlen' ▸ shiftLeft_one_lt hb
      have hright : ((bits <<< 1) ||| 1#256).toNat < 2 ^ (len + 1#9).toNat := hlen' ▸ shiftLeft_one_or_one_lt hb
      refine (ihl (fun x hx => hle x (List.mem_append_left _ hx)) bound (by omega) hleft hpath hfit).seq
        fun u ⟨hu, hufit⟩ => ?_
      rw [hu.nodeAt i]
      exact ihr (fun x hx => hle x (List.mem_append_right _ hx)) bound (by omega) hright hu hufit

/-- An alphabet's worth of leaves at most, whether or not the end-of-stream symbol is among them. -/
theorem leaves_length_le {ls : List Sym} (hnd : ls.Nodup) (hle : ∀ x ∈ ls, x.toNat ≤ 256) : ls.length ≤ 257 := by
  by_cases heos : eosSym ∈ ls
  · exact BuiltLeaves.length_le ⟨hnd, hle, heos⟩
  · have hadd : BuiltLeaves (eosSym :: ls) := ⟨hnd.cons heos, List.forall_mem_cons.2 ⟨Nat.le_refl _, hle⟩, List.mem_cons_self⟩
    exact (Nat.le_succ _).trans hadd.length_le

/-- GENCODES of any tree over the alphabet goes on, with each symbol's path in the code table (R106 to R108). -/
theorem gencodesBody_writes {s : State} {t : Tree} (ht : s.tree = some t) (hnd : t.leaves.Nodup)
    (hle : ∀ x ∈ t.leaves, x.toNat ≤ 256) :
    ∃ u, gencodesBody s = .ok () u ∧ State.CodesWritten { s with phase := .gencodes, codesValid := true } u ∧ u.CodesFit ∧
      ∀ x : Sym, u.codeOf x.toNat = t.codeOf x := by
  have hstart : treeAt arenaSize (gencodesStart s) s.root = some t :=
    (treeAt_congr (s := s) (t := gencodesStart s) rfl arenaSize s.root).trans ht
  obtain ⟨is, hsub⟩ := subtree_of_treeAt hstart
  have hlen : (0#9).toNat + t.leaves.length ≤ 257 := by simpa using leaves_length_le hnd hle
  obtain ⟨v, hv, -⟩ := walk_completes hstart 0#9 0#256 (.refl _)
  have hwalk := (walk_safe hsub hnd hle arenaSize 0#9 0#256 hlen (.refl _)).of_ok hv
  have hfit := walk_codesFit hsub hle arenaSize hlen (show (0#256).toNat < 2 ^ (0#9).toNat by decide) (.refl _)
    (gencodesStart_codesFit s)
  rw [hv] at hfit
  refine ⟨{ v with codesValid := true }, by rw [gencodesBody, hv, Res.seq_ok], ?_, hfit.2, fun x => ?_⟩
  · obtain ⟨_, _, _, rfl⟩ := hwalk.frame
    exact ⟨_, _, _, rfl⟩
  · change v.codeOf x.toNat = _
    rcases t.codeOf_cases x with hx | ⟨hx, hnone⟩
    · exact hwalk.inside x _ hx
    · rw [hwalk.outside x hx, gencodesStart_codeOf, hnone]

/-- A symbol of the alphabet is its number. -/
theorem ofNat_symbol_toNat {x : Nat} (hx : x < alphabet) : (BitVec.ofNat 9 x).toNat = x := by
  rw [BitVec.toNat_ofNat]
  exact Nat.mod_eq_of_lt (Nat.lt_of_lt_of_le hx (by decide))

/-- Settles O35: the walk of the tree in the arena gives each leaf its path, and the start of GENCODES has cleared the others. -/
theorem gencodesRecordsThePaths : Obligations.GencodesRecordsThePaths := by
  unfold Obligations.GencodesRecordsThePaths
  intro s tr hi hv ho ht hnd hle
  have hready : gencodesReady s = true := by simp [gencodesReady, hv, ho]
  have htree : (s.start noMacro).tree = some tr := (tree_congr s (s.start noMacro) rfl rfl).trans ht
  obtain ⟨u, hu, hw, hfit, hcodes⟩ := gencodesBody_writes htree hnd hle
  have hfit' : u.complete.CodesFit := hfit
  refine ⟨u.complete, accept_of_ok hi hready hu, fun x hx => ?_, ?_⟩
  · have hcode : u.complete.codeOf x = tr.codeOf (BitVec.ofNat 9 x) := by
      have := hcodes (BitVec.ofNat 9 x)
      rwa [ofNat_symbol_toNat hx] at this
    exact ⟨hcode, by rw [← hcode, codeOf_length], hfit' x⟩
  · obtain ⟨_, _, _, rfl⟩ := hw
    exact ⟨rfl, hv, ho, rfl, rfl, rfl, rfl⟩

/-! ## The codes of a tree -/

/-- Two leaves' paths part at some node, so neither begins the other (R111). -/
theorem Tree.codes_prefixFree {t : Tree} {x y : Sym} {c d : List Bool} (hc : (x, c) ∈ t.codes) (hd : (y, d) ∈ t.codes)
    (hne : x ≠ y) : ¬ c <+: d := by
  induction t generalizing c d with
  | leaf sym =>
    obtain ⟨rfl, -⟩ := Prod.mk.inj (List.mem_singleton.1 hc)
    obtain ⟨rfl, -⟩ := Prod.mk.inj (List.mem_singleton.1 hd)
    exact absurd rfl hne
  | internal l r ihl ihr =>
    simp only [Tree.codes, List.mem_append, List.mem_map, Prod.exists, Prod.mk.injEq] at hc hd
    rcases hc with ⟨_, c, hc, rfl, rfl⟩ | ⟨_, c, hc, rfl, rfl⟩ <;>
      rcases hd with ⟨_, d, hd, rfl, rfl⟩ | ⟨_, d, hd, rfl, rfl⟩
    · simpa using ihl hc hd
    · simp
    · simp
    · simpa using ihr hc hd

/-- Each node's two subtrees share its part of the code space evenly, so the leaves' parts fill it (R112); no path is longer than
`n` in a tree of at most `n + 1` leaves. -/
theorem Tree.codes_fill (t : Tree) {n : Nat} (h : t.leaves.length ≤ n + 1) :
    (t.codes.map fun c => 2 ^ (n - c.2.length)).sum = 2 ^ n := by
  induction t generalizing n with
  | leaf sym => simp [Tree.codes]
  | internal l r ihl ihr =>
    have hposl := l.leaves_length_pos
    have hposr := r.leaves_length_pos
    simp only [Tree.leaves, List.length_append] at h
    obtain ⟨m, rfl⟩ : ∃ m, n = m + 1 := ⟨n - 1, by omega⟩
    simp only [Tree.codes, List.map_append, List.map_map, Function.comp_def, List.length_cons, Nat.add_sub_add_right,
      List.sum_append]
    rw [ihl (by omega), ihr (by omega)]
    omega

/-- Where no symbol has two leaves, a leaf's code is the symbol's code. -/
theorem Tree.codeOf_eq_of_mem {t : Tree} (hnd : t.leaves.Nodup) {x : Sym} {c : List Bool} (h : (x, c) ∈ t.codes) :
    t.codeOf x = c := by
  rcases t.codeOf_cases x with h' | ⟨hx, -⟩
  · rw [← t.codes_map_fst] at hnd
    exact (Prod.mk.inj (List.inj_on_of_nodup_map hnd h' h rfl)).2
  · exact absurd (Tree.mem_leaves_of_mem_codes h) hx

/-! ## The code table of a run -/

/-- The code table is that of the built tree `t` (R13, R17, R19). -/
structure State.CodesOf (s : State) (t : Tree) : Prop where
  isInternal : t.isInternal = true
  leaves : BuiltLeaves t.leaves
  codes : ∀ x < alphabet, s.codeOf x = t.codeOf (BitVec.ofNat 9 x)

theorem exists_codesOf {s : State} (h : s.runOk = true) (hc : s.codesValid = true) : ∃ t, s.CodesOf t := by
  obtain ⟨-, hseq, -, harena, hcodes, -⟩ := runOk_iff.1 h
  obtain ⟨-, -, hbuilt, -⟩ := sequencerOk_iff.1 hseq
  obtain ⟨hv, ho⟩ := hbuilt hc
  obtain ⟨t, -, ht, -, hleaves⟩ := builtTree_of_arenaOk harena hv ho
  obtain ⟨hint, -⟩ : t.isInternal = true ∧ _ := by simpa [State.arenaOk, hv, ht, and_assoc] using harena
  exact ⟨t, hint, hleaves, by simpa [State.codesOk, hc, ht] using hcodes⟩

theorem State.CodesOf.codeOf_leaf {s : State} {t : Tree} (h : s.CodesOf t) {x : Sym} (hx : x ∈ t.leaves) :
    s.codeOf x.toNat = t.codeOf x := by
  rw [h.codes _ (Nat.lt_succ_of_le (h.leaves.le_eos x hx)), BitVec.ofNat_toNat, BitVec.setWidth_eq]

/-- The symbols with a code are the leaves (R108). -/
theorem State.CodesOf.codeLenAt_ne_zero_iff {s : State} {t : Tree} (h : s.CodesOf t) {x : Nat} (hx : x < alphabet) :
    s.codeLenAt x ≠ 0#9 ↔ BitVec.ofNat 9 x ∈ t.leaves := by
  rw [ne_eq, codeLenAt_eq_zero_iff, h.codes x hx]
  refine ⟨fun hne => ?_, Tree.codeOf_ne_nil h.isInternal⟩
  rcases t.codeOf_cases (BitVec.ofNat 9 x) with hmem | ⟨-, hnil⟩
  · exact Tree.mem_leaves_of_mem_codes hmem
  · exact absurd hnil hne

theorem State.CodesOf.mem_codes {s : State} {t : Tree} (h : s.CodesOf t) {x : Nat} (hx : x < alphabet)
    (hne : s.codeLenAt x ≠ 0#9) : (BitVec.ofNat 9 x, s.codeOf x) ∈ t.codes := by
  rw [h.codes x hx]
  exact (t.codeOf_cases _).resolve_right fun hout => hout.1 ((h.codeLenAt_ne_zero_iff hx).1 hne)

theorem State.CodesOf.symbols_perm {s : State} {t : Tree} (h : s.CodesOf t) :
    ((List.range alphabet).filter fun x => decide (s.codeLenAt x ≠ 0#9)).Perm (t.codes.map fun c => c.1.toNat) := by
  have hmap : (t.codes.map fun c => c.1.toNat) = t.leaves.map BitVec.toNat := by rw [← t.codes_map_fst, List.map_map]; rfl
  have hnd : (t.leaves.map BitVec.toNat).Nodup := h.leaves.nodup.map fun _ _ => BitVec.eq_of_toNat_eq
  rw [hmap]
  refine (List.perm_ext_iff_of_nodup (List.nodup_range.filter _) hnd).2 fun x => ?_
  simp only [List.mem_filter, List.mem_range, decide_eq_true_eq, List.mem_map]
  constructor
  · rintro ⟨hx, hne⟩
    exact ⟨_, (h.codeLenAt_ne_zero_iff hx).1 hne, ofNat_symbol_toNat hx⟩
  · rintro ⟨y, hy, rfl⟩
    have hlt : y.toNat < alphabet := Nat.lt_succ_of_le (h.leaves.le_eos y hy)
    refine ⟨hlt, (h.codeLenAt_ne_zero_iff hlt).2 ?_⟩
    rwa [BitVec.ofNat_toNat, BitVec.setWidth_eq]

/-- Settles O36: the codes are paths to different leaves of one tree, and the end-of-stream symbol is a leaf. -/
theorem validCodesArePrefixFree : Obligations.ValidCodesArePrefixFree := by
  unfold Obligations.ValidCodesArePrefixFree
  intro s hs hv
  obtain ⟨t, h⟩ := exists_codesOf hs hv
  refine ⟨fun x y hx hy hne hlx hly => ?_, (h.codeLenAt_ne_zero_iff (by decide)).2 h.leaves.eos⟩
  refine Tree.codes_prefixFree (h.mem_codes hx hlx) (h.mem_codes hy hly) fun heq => hne ?_
  rw [← ofNat_symbol_toNat hx, heq, ofNat_symbol_toNat hy]

/-- Settles O37: the sum over the symbols is the sum over the leaves of one tree. -/
theorem validCodesAreComplete : Obligations.ValidCodesAreComplete := by
  unfold Obligations.ValidCodesAreComplete
  intro s hs hv
  obtain ⟨t, h⟩ := exists_codesOf hs hv
  have hlen : ∀ c ∈ t.codes, (s.codeLenAt c.1.toNat).toNat = c.2.length := fun c hc => by
    rw [← codeOf_length, h.codeOf_leaf (Tree.mem_leaves_of_mem_codes hc), Tree.codeOf_eq_of_mem h.leaves.nodup hc]
  calc (((List.range alphabet).filter fun x => decide (s.codeLenAt x ≠ 0#9)).map
        fun x => 2 ^ (256 - (s.codeLenAt x).toNat)).sum
      = (t.codes.map fun c => 2 ^ (256 - (s.codeLenAt c.1.toNat).toNat)).sum := by
        rw [(h.symbols_perm.map _).sum_eq, List.map_map]
        rfl
    _ = (t.codes.map fun c => 2 ^ (256 - c.2.length)).sum := by
        rw [List.map_congr_left fun c hc => by rw [hlen c hc]]
    _ = 2 ^ 256 := t.codes_fill h.leaves.length_le

end Sys2Proof.Machine
end

section
/-!
PROOF of O43 (WritingFrames). As for the frames of the reading commands, a part keeps a view (`Keeps`): a write keeps the state
with the sink's bits blanked, a close the state with the sink blanked. WRMAGIC and CLOSE raise no error, so that they keep
the error code and the valid flags too.
-/
namespace Sys2Proof.Machine

/-! ## What the writing commands may change -/

/-- The state with the sink's bits, the answers of its collaborator and the model's record blanked. -/
def State.outsideWriting (s : State) : State := { s with snk := { s.snk with bits := [], answers := none }, trace := [] }

/-- The state with the sink and the model's record blanked. -/
def State.outsideSink (s : State) : State := { s with snk := State.reset.snk, trace := [] }

/-- The state with the stack blanked. -/
def State.withoutStk (s : State) : State := s.setStk []

theorem sinkWrite_keeps (n : Nat) (v : BitVec 32) : Keeps State.outsideWriting (sinkWrite n v) := fun s => by
  rcases sinkWrite_cases n v s with ⟨-, h⟩ | ⟨-, -, h⟩ | ⟨-, -, h⟩
  · rw [h]; rfl
  · rw [h]; rfl
  · rw [h]; rfl

theorem sinkClose_keeps : Keeps State.outsideSink sinkClose := fun s => by
  rcases sinkClose_cases s with ⟨-, h⟩ | ⟨-, -, h⟩ | ⟨-, -, h⟩
  · rw [h]; rfl
  · rw [h]; rfl
  · rw [h]; rfl

/-! ## Commands that raise no error -/

/-- The part raises no error. -/
def NeverRaises (c : State → Res Unit) : Prop := ∀ s k t, c s ≠ .stop (.raise k) t

theorem sinkWrite_neverRaises (n : Nat) (v : BitVec 32) : NeverRaises (sinkWrite n v) := fun s k t => by
  rcases sinkWrite_cases n v s with ⟨-, h⟩ | ⟨-, -, h⟩ | ⟨-, -, h⟩
  · rw [h]; simp
  · rw [h]; simp
  · rw [h]; simp

theorem sinkClose_neverRaises : NeverRaises sinkClose := fun s k t => by
  rcases sinkClose_cases s with ⟨-, h⟩ | ⟨-, -, h⟩ | ⟨-, -, h⟩
  · rw [h]; simp
  · rw [h]; simp
  · rw [h]; simp

/-- The state with the registers blanked that acceptance and completion write (R153). -/
def State.outsideAcceptance (s : State) : State :=
  { s with phase := .idle, busy := false, done := false, work := { s.work with macroCmd := noMacro } }

/-- A command without a prerequisite whose body raises no error ends in no error entry. -/
theorem accept_keeps_of_neverRaises {γ : Type} {f : State → γ} {m : BitVec 2} {body : State → Res Unit} {s t : State}
    (hbody : Keeps (fun s => f s.outsideAcceptance) body) (hraise : NeverRaises body)
    (h : accept noPrerequisite m body s = .next t) : f t.outsideAcceptance = f s.outsideAcceptance := by
  have hends := hbody (s.start m)
  rcases accept_cases h with ⟨-, rfl⟩ | ⟨-, -, hpre, -⟩ | ⟨-, -, -, ⟨u, hu, rfl⟩ | hu | ⟨k, u, hu, -⟩⟩
  · rfl
  · cases hpre
  · rw [hu] at hends
    exact hends
  · rw [hu] at hends
    exact hends
  · exact absurd hu (hraise _ k u)

theorem wrmagicBody_keeps : Keeps (fun s => s.outsideAcceptance.outsideWriting) wrmagicBody := fun s =>
  ((sinkWrite_keeps 32 s.cfg.magic).view State.outsideAcceptance) { s with phase := .wrmagic }

theorem wrmagicBody_neverRaises : NeverRaises wrmagicBody := fun s =>
  sinkWrite_neverRaises 32 s.cfg.magic { s with phase := .wrmagic }

theorem closeBody_keeps : Keeps (fun s => s.outsideAcceptance.outsideSink) closeBody := fun s =>
  (sinkClose_keeps.view State.outsideAcceptance) { s with phase := .close }

theorem closeBody_neverRaises : NeverRaises closeBody := fun s => sinkClose_neverRaises { s with phase := .close }

/-! ## WRHDR -/

/-- A write keeps what is left when the stack is blanked too. -/
theorem sinkWrite_keepsOutsideHeader (n : Nat) (v : BitVec 32) :
    Keeps (fun s => s.outsideWriting.withoutStk) (sinkWrite n v) := (sinkWrite_keeps n v).view State.withoutStk

theorem writeToken_keeps (n : Node) : Keeps (fun s => s.outsideWriting.withoutStk) (writeToken n) := fun s => by
  unfold writeToken writeLeafToken writeNodeToken
  cases s.work.stk with
  | nil => split <;> rfl
  | cons e stk =>
    split
    · refine (sinkWrite_keepsOutsideHeader 1 1#32).seq ((sinkWrite_keepsOutsideHeader 9 _).seq ?_) s
      exact fun _ => rfl
    · refine (sinkWrite_keepsOutsideHeader 1 0#32).seq ?_ s
      exact fun _ => rfl

theorem writeTokens_keeps (bound : Nat) : Keeps (fun s => s.outsideWriting.withoutStk) (writeTokens bound) := by
  induction bound with
  | zero => exact fun _ => rfl
  | succ bound ih =>
    intro s
    rw [writeTokens]
    split
    · rfl
    · exact (writeToken_keeps _).seq ih s

theorem wrhdrBody_keeps : Keeps (fun s => s.outsideSequencer.outsideWriting.withoutStk) wrhdrBody := fun s =>
  ((writeTokens_keeps arenaSize).view State.outsideSequencer) (wrhdrStart s)

/-! ## The frames -/

/-- `s` with all that `State.outsideAcceptance` blanks taken from `t`. -/
def State.withAcceptanceOf (t s : State) : State :=
  { s with phase := t.phase, busy := t.busy, done := t.done, work := { s.work with macroCmd := t.work.macroCmd } }

/-- `s` with what was written in `t`. -/
def State.withWritingOf (t s : State) : State :=
  { s with snk := { s.snk with bits := t.snk.bits, answers := t.snk.answers }, trace := t.trace }

/-- `s` with the sink of `t`. -/
def State.withSinkOf (t s : State) : State := { s with snk := t.snk, trace := t.trace }

/-- Settles O43: a next state is its own view with what was blanked put back, and its view is that of the state before. -/
theorem writingFrames : Obligations.WritingFrames := by
  unfold Obligations.WritingFrames
  refine ⟨fun s t h => ?_, fun s t h => ?_, fun s t h => ?_⟩
  · have hview : t.outsideAcceptance.outsideWriting = s.outsideAcceptance.outsideWriting :=
      accept_keeps_of_neverRaises wrmagicBody_keeps wrmagicBody_neverRaises h
    have hframe := congrArg (fun u => t.withAcceptanceOf (t.withWritingOf u)) hview
    exact hframe
  · have hview : t.outsideSequencer.outsideWriting.withoutStk = s.outsideSequencer.outsideWriting.withoutStk :=
      accept_keeps_view (f := fun u => u.outsideWriting.withoutStk) wrhdrBody_keeps h
    have hframe := congrArg (fun u => t.withSequencerOf (t.withWritingOf (u.setStk t.work.stk))) hview
    exact hframe
  · have hview : t.outsideAcceptance.outsideSink = s.outsideAcceptance.outsideSink :=
      accept_keeps_of_neverRaises closeBody_keeps closeBody_neverRaises h
    have hframe := congrArg (fun u => t.withAcceptanceOf (t.withSinkOf u)) hview
    exact hframe

end Sys2Proof.Machine
end

section
/-!
PROOF of O39 (RdhdrReadsTheHeader). `rdhdrBody_completes` gives the tree and the read position. That the weights are 0 is a fact
about every entry allocated so far (`State.Weightless`): RDHDR's allocations enter nodes of weight 0 and none of its updates
changes a weight (R122).
-/
namespace Sys2Proof.Machine

/-- Every allocated entry has weight 0. -/
def State.Weightless (s : State) : Prop := ∀ i : Idx, i.toNat < s.nodeCount.toNat → (s.nodeAt i).weight = 0#40

theorem State.Weightless.congr {s t : State} (h : s.Weightless) (hn : t.node = s.node) (hc : t.nodeCount = s.nodeCount) :
    t.Weightless := fun i hi => by
  rw [nodeAt_congr hn]
  exact h i (hc ▸ hi)

/-- An update of an entry that leaves its weight. -/
theorem State.Weightless.setNode {s : State} (h : s.Weightless) {i : Idx} {n : Node} (hn : n.weight = (s.nodeAt i).weight) :
    (s.setNode i n).Weightless := fun j hj => by
  rw [nodeAt_setNode]
  split
  · next he =>
    rw [hn, he]
    exact h j hj
  · exact h j hj

/-- A new entry of weight 0; where the count would wrap, no entry is below it. -/
theorem State.Weightless.grow {s : State} (h : s.Weightless) {n : Node} (hn : n.weight = 0#40) :
    (s.grow n).Weightless := fun i hi => by
  by_cases hi' : i = s.nodeCount
  · rw [hi', s.grow_nodeAt_new, hn]
  · rw [s.grow_nodeAt_old n hi']
    have hlt : i.toNat < (s.nodeCount + 1#10).toNat := hi
    exact h i (by bv_omega)

theorem srcRead_weightless (n : Nat) {s : State} (h : s.Weightless) : (srcRead n s).Ends State.Weightless :=
  (srcRead_keeps n s).mono fun t ht => by
    have hn : t.node = s.node := congrArg (fun u => u.node) ht
    have hc : t.nodeCount = s.nodeCount := congrArg (fun u => u.nodeCount) ht
    exact h.congr hn hc

theorem alloc_weightless {n : Node} (hn : n.weight = 0#40) {s : State} (h : s.Weightless) :
    (alloc n s).Ends State.Weightless := by
  rcases alloc_cases n s with ⟨-, e⟩ | ⟨-, e⟩
  · rw [e]; exact h
  · rw [e]; exact h.grow hn

theorem attach_weightless (i : Idx) (stk : List StkEntry) {s : State} (h : s.Weightless) : (attach i stk s).Weightless := by
  induction stk generalizing i s with
  | nil => exact h
  | cons e rest ih =>
    rw [attach]
    split
    · exact ih _ (h.setNode rfl)
    · exact h.setNode rfl

theorem openNode_weightless {s : State} (h : s.Weightless) : (openNode s).Ends State.Weightless :=
  (alloc_weightless rfl h).bind fun _ _ ht => ht

theorem readLeafRest_weightless {s : State} (h : s.Weightless) : (readLeafRest s).Ends State.Weightless := by
  refine (alloc_weightless rfl h).bind fun i t ht => (srcRead_weightless 9 ht).bind fun v u hu => ?_
  cases v with
  | none => exact hu
  | some w => exact attach_weightless i _ (hu.setNode rfl)

theorem readToken_weightless {s : State} (h : s.Weightless) : (readToken s).Ends State.Weightless := by
  refine (srcRead_weightless 1 h).bind fun v t ht => ?_
  cases v with
  | none => exact ht
  | some b =>
    dsimp only
    split
    · exact readLeafRest_weightless ht
    · exact openNode_weightless ht

theorem readTokens_weightless (bound : Nat) {s : State} (h : s.Weightless) : (readTokens bound s).Ends State.Weightless := by
  induction bound generalizing s with
  | zero => exact h
  | succ bound ih =>
    refine (readToken_weightless h).seq fun t ht => ?_
    split
    · exact ht
    · exact ih ht

theorem rdhdrBody_weightless (s : State) : (rdhdrBody s).Ends State.Weightless := by
  refine (readTokens_weightless _ (s := rdhdrStart s) fun i hi => absurd hi (Nat.not_lt_zero _)).seq fun t ht => ?_
  unfold rdhdrEnd
  split
  · exact ht
  · exact ht

/-- Settles O39: the loop reads the tree and takes as many bits as its header has, every entry with weight 0. -/
theorem rdhdrReadsTheHeader : Obligations.RdhdrReadsTheHeader := by
  unfold Obligations.RdhdrReadsTheHeader
  intro s tr more hcfg hi hr h hint hsize
  obtain ⟨u, hu, hbody, htree⟩ := rdhdrBody_completes (s := s.start noMacro) hcfg hr h hint hsize
  have hweights := rdhdrBody_weightless (s.start noMacro)
  rw [hbody] at hweights
  have hcount : u.nodeCount.toNat = tr.size := by simpa using hu.count
  obtain ⟨_, _, _, _, _, _, _, rfl⟩ := hu.frame
  refine ⟨_, accept_of_ok hi rfl hbody, ?_, rfl, hcount, hweights, rfl, rfl, rfl, rfl, rfl, rfl, rfl, rfl, rfl⟩
  rw [← htree]
  exact tree_congr _ _ rfl rfl

end Sys2Proof.Machine
end

section
/-!
PROOF of O44 (HeaderCommandsAreTheirTokens). Inside RDHDR or WRHDR a step is one round of the command's loop followed by what follows
a token (`step_readToken`, `step_writeToken`), whether the round goes on, ends in an error or stalls. So the loop is as many
steps as it makes rounds, by induction on its bound; the bound is never reached, because a token read takes an arena entry
and a token written takes a node off the trees that the stack holds (`State.Unwritten`).
-/
namespace Sys2Proof.Machine

/-! ## A CORE inside a header command of its own -/

/-- The next step runs a token of phase `p` in a command of its own, outside COMPRESS and DECOMPRESS. -/
structure State.TokenNext (p : Phase) (s : State) : Prop where
  phase : s.phase = p
  busy : s.busy = true
  pending : s.pending = []
  macroCmd : s.work.macroCmd = noMacro

/-- A part of a command that goes on leaves the next step a token of the same phase. -/
theorem IsPart.tokenNext {c : State → Res Unit} (hc : IsPart State.control c) {p : Phase} {s t : State} (h : s.TokenNext p)
    (ht : c s = .ok () t) : t.TokenNext p ∧ t.cfg = s.cfg := by
  have hlike := hc id (fun _ => s.work.macroCmd) s
  have hself : c s = (c s).map (State.relabel id fun _ => s.work.macroCmd) := hlike.relabelled
  have hcontrol : t.control = s.control := by
    have hends := hlike.kept
    rw [ht] at hends
    exact hends.1
  rw [ht] at hself
  injection hself with _ hself
  have hmacro : t.work.macroCmd = s.work.macroCmd := congrArg (fun u => u.work.macroCmd) hself
  have hphase : t.phase = s.phase := congrArg (fun u => u.phase) hcontrol
  have hbusy : t.busy = s.busy := congrArg (fun u => u.busy) hcontrol
  have hpending : t.pending = s.pending := congrArg (fun u => u.pending) hcontrol
  exact ⟨⟨hphase.trans h.phase, hbusy.trans h.busy, hpending.trans h.pending, hmacro.trans h.macroCmd⟩,
    congrArg (fun u => u.cfg) hcontrol⟩

/-- Where no token stands, a running CORE with no host action to come has the outcome that its fetch gives. -/
theorem step_of_busy_done {s : State} (hp : s.pending = []) (hb : s.busy = true) {o : Host.Outcome State Fault Refusal}
    (h : fetchToken s = .done o) : step s = o := by
  simp only [step, fetch, hp, hb, if_true, h]

/-- A run goes on after its first step. -/
theorem run_succ_of_step {M : Host.Core} {s t : M.State} (h : M.step s = .next t) (n : Nat) :
    M.run (n + 1) s = M.run n t := by
  rw [Host.Core.run, h]

theorem run_one {M : Host.Core} (s : M.State) : M.run 1 s = M.step s := by
  rw [Host.Core.run]
  cases M.step s <;> rfl

/-! ## Tokens read, whether the source answers or stalls -/

/-- A read of bits that are there stalls or gives them. -/
theorem srcRead_of_le {n : Nat} {s : State} (hn : 1 ≤ n) (h : n ≤ s.src.rest.length) :
    srcRead n s = .stop .stall s ∨
    ∃ t, srcRead n s = .ok (some (BitVec.ofNat 32 (ofMsbBits 0 (s.src.rest.take n)))) t ∧
      t.src.rest = s.src.rest.drop n := by
  rcases srcRead_cases n s with ⟨-, e⟩ | ⟨v, -, hp, e⟩ | ⟨-, hp, -⟩
  · exact .inl e
  · obtain ⟨-, rfl⟩ := peek_eq_some.1 hp
    exact .inr ⟨_, e, (List.drop_drop ..).symm⟩
  · have hlen := peek_eq_none.1 hp
    rw [Source.rest, List.length_drop] at h
    omega

/-- A read of more bits than there are stalls or finds the end of the source. -/
theorem srcRead_of_lt {n : Nat} {s : State} (h : s.src.rest.length < n) :
    srcRead n s = .stop .stall s ∨ ∃ t, srcRead n s = .ok none t := by
  rcases srcRead_cases n s with ⟨-, e⟩ | ⟨v, -, hp, -⟩ | ⟨-, -, e⟩
  · exact .inl e
  · have hlen := (peek_eq_some.1 hp).1
    rw [Source.rest, List.length_drop] at h
    omega
  · exact .inr ⟨_, e⟩

/-- The flag bit of a token is read, or the read stalls. -/
theorem srcRead_flag {s : State} {b : Bool} {more : List Bool} (h : s.src.rest = b :: more) :
    srcRead 1 s = .stop .stall s ∨
    ∃ v t, v.getLsbD 0 = b ∧ srcRead 1 s = .ok (some v) t ∧ t.src.rest = more := by
  rcases srcRead_of_le (s := s) (Nat.le_refl 1) (by simp [h]) with e | ⟨t, e, hrest⟩
  · exact .inl e
  · rw [h, show (b :: more).take 1 = [b] from rfl] at e
    rw [h] at hrest
    exact .inr ⟨_, t, by cases b <;> rfl, e, hrest⟩

/-- A part has stopped. -/
def Res.Stops (r : Res Unit) : Prop := ∃ q t, r = .stop q t

/-- No flag bit is left. -/
theorem readToken_stops_of_empty {s : State} (h : s.src.rest = []) : (readToken s).Stops := by
  rcases srcRead_of_lt (n := 1) (s := s) (by simp [h]) with e | ⟨t, e⟩
  · rw [readToken, e]; exact ⟨_, _, rfl⟩
  · rw [readToken, e]; exact ⟨_, _, rfl⟩

/-- The flag bit of a leaf is there, its symbol is not. -/
theorem readToken_stops_of_short {s : State} {more : List Bool} (h : s.src.rest = true :: more) (hshort : more.length < 9) :
    (readToken s).Stops := by
  rcases srcRead_flag h with e | ⟨v, t, hv, e, hrest⟩
  · rw [readToken, e]; exact ⟨_, _, rfl⟩
  rw [readToken, e, Res.bind_ok]
  dsimp only
  rw [if_pos hv, readLeafRest, openLeaf]
  rcases alloc_cases (leafNode 0#9 0#40) t with ⟨-, e'⟩ | ⟨-, e'⟩
  · rw [e']; exact ⟨_, _, rfl⟩
  · rw [e', Res.bind_ok]
    rcases srcRead_of_lt (n := 9) (s := t.grow (leafNode 0#9 0#40)) (hrest ▸ hshort) with e'' | ⟨u, e''⟩
    · exact ⟨_, _, congrArg (Res.bind · _) e''⟩
    · exact ⟨_, _, congrArg (Res.bind · _) e''⟩

/-- A flag bit 0 is read as the token `HDR.NODE` is taken. -/
theorem takeNode_eq_of_flag {s : State} {more : List Bool} (h : s.src.rest = false :: more) : takeNode s = readToken s := by
  rcases srcRead_flag h with e | ⟨v, t, hv, e, -⟩
  · rw [takeNode, readToken, e]; rfl
  · rw [takeNode, readToken, e, Res.bind_ok, Res.bind_ok]
    exact (if_neg (by rw [hv]; exact Bool.false_ne_true)).symm

/-- A flag bit 1 and a symbol are read as their token `HDR.LEAF` is taken. -/
theorem takeLeaf_eq_of_flag {s : State} {more : List Bool} (h : s.src.rest = true :: more) (hlen : 9 ≤ more.length) :
    takeLeaf (BitVec.ofNat 9 (ofMsbBits 0 (more.take 9))) s = readToken s := by
  rcases srcRead_flag h with e | ⟨v, t, hv, e, hrest⟩
  · rw [takeLeaf, readToken, e]; rfl
  rw [takeLeaf, readToken, e, Res.bind_ok, Res.bind_ok]
  dsimp only
  rw [if_pos hv, readLeafRest]
  rcases alloc_cases (leafNode 0#9 0#40) t with ⟨-, e'⟩ | ⟨-, e'⟩
  · rw [openLeaf, e']; rfl
  rw [openLeaf, e', Res.bind_ok, Res.bind_ok]
  change (srcRead 9 (t.grow _)).bind _ = (srcRead 9 (t.grow _)).bind _
  have hrest' : (t.grow (leafNode 0#9 0#40)).src.rest = more := hrest
  rcases srcRead_of_le (n := 9) (s := t.grow (leafNode 0#9 0#40)) (by decide) (hrest' ▸ hlen) with e'' | ⟨u, e'', -⟩
  · rw [e'']; rfl
  · rw [e'', hrest', Res.bind_ok, Res.bind_ok]
    dsimp only
    rw [BitVec.setWidth_ofNat_of_le (by decide)]

/-- A step inside RDHDR is a round of its loop and what follows a token (R123). -/
theorem step_readToken {s : State} (h : s.TokenNext .rdhdr) : step s = settle ((readToken s).seq afterReadToken) := by
  have hstops {e : DecodeError} (hd : decodeToken s.src.rest = .error e) (hr : (readToken s).Stops) :
      step s = settle ((readToken s).seq afterReadToken) := by
    obtain ⟨q, t, hr⟩ := hr
    rw [hr, Res.seq_stop, ← hr]
    exact step_of_busy_done h.pending h.busy (by simp only [fetchToken, h.phase, hd])
  have hruns {i : Instr} {more : List Bool} (hd : decodeToken s.src.rest = .ok (i, more)) : step s = exec i s :=
    step_of_busy h.pending h.busy (by simp only [fetchToken, h.phase, hd])
  match hrest : s.src.rest with
  | [] => exact hstops (by rw [hrest]; rfl) (readToken_stops_of_empty hrest)
  | false :: more =>
    rw [hruns (by rw [hrest]; rfl), exec_hdrNode_of_rdhdr h.phase, takeNode_eq_of_flag hrest]
  | true :: more =>
    by_cases hlen : 9 ≤ more.length
    · rw [hruns (by rw [hrest]; exact if_pos hlen), exec_hdrLeaf_of_rdhdr _ h.phase, takeLeaf_eq_of_flag hrest hlen]
    · exact hstops (by rw [hrest]; exact if_neg hlen) (readToken_stops_of_short hrest (by omega))

/-! ## RDHDR -/

theorem srcRead_nodeCount {n : Nat} {s t : State} {v : Option (BitVec 32)} (h : srcRead n s = .ok v t) :
    t.nodeCount = s.nodeCount ∧ t.cfg = s.cfg := by
  have hkeeps := srcRead_keeps n s
  rw [h] at hkeeps
  exact ⟨congrArg (fun u => u.nodeCount) hkeeps, congrArg (fun u => u.cfg) hkeeps⟩

theorem alloc_eq_ok {n : Node} {s t : State} {i : Idx} (h : alloc n s = .ok i t) :
    s.nodeCount.toNat ≠ s.cfg.nodeCap ∧ t = s.grow n := by
  rcases alloc_cases n s with ⟨-, e⟩ | ⟨hroom, e⟩
  · rw [e] at h
    cases h
  · rw [e] at h
    cases h
    exact ⟨hroom, rfl⟩

/-- The node of a flag bit 0 is the next entry. -/
theorem openNode_takes_entry {s t : State} (h : openNode s = .ok () t) :
    s.nodeCount.toNat ≠ s.cfg.nodeCap ∧ t.nodeCount = s.nodeCount + 1#10 := by
  obtain ⟨i, u, halloc, ht⟩ := Res.bind_eq_ok.1 h
  obtain ⟨hroom, rfl⟩ := alloc_eq_ok halloc
  cases ht
  exact ⟨hroom, rfl⟩

/-- The node of a flag bit 1 is the next entry, and its symbol takes none. -/
theorem readLeafRest_takes_entry {s t : State} (h : readLeafRest s = .ok () t) :
    s.nodeCount.toNat ≠ s.cfg.nodeCap ∧ t.nodeCount = s.nodeCount + 1#10 := by
  obtain ⟨i, u, halloc, ht⟩ := Res.bind_eq_ok.1 h
  obtain ⟨hroom, rfl⟩ := alloc_eq_ok halloc
  obtain ⟨v, w, hread, ht⟩ := Res.bind_eq_ok.1 ht
  cases v with
  | none => cases ht
  | some v =>
    cases ht
    obtain ⟨node, stk, hattach⟩ := attach_frame i w.work.stk (w.setNode i { w.nodeAt i with sym := v.setWidth 9 })
    refine ⟨hroom, ?_⟩
    rw [closeLeaf, hattach]
    exact (srcRead_nodeCount hread).1

/-- A token that is read takes an arena entry (R123). -/
theorem readToken_takes_entry {s t : State} (h : readToken s = .ok () t) :
    s.nodeCount.toNat ≠ s.cfg.nodeCap ∧ t.nodeCount = s.nodeCount + 1#10 := by
  obtain ⟨f, u, hread, ht⟩ := Res.bind_eq_ok.1 h
  obtain ⟨hcount, hcfg⟩ := srcRead_nodeCount hread
  rw [← hcount, ← hcfg]
  cases f with
  | none => cases ht
  | some v =>
    dsimp only at ht
    split at ht
    · exact readLeafRest_takes_entry ht
    · exact openNode_takes_entry ht

/-- What follows the loop of RDHDR in a command of its own. -/
def rdhdrFinish (s : State) : Res Unit := (rdhdrEnd s).seq fun s => .ok () s.complete

/-- With no node open the header is at its end, and so is the command. -/
theorem afterReadToken_of_done {s : State} (h : s.TokenNext .rdhdr) (hstk : s.work.stk = []) :
    afterReadToken s = rdhdrFinish s := by
  rw [afterReadToken, if_pos hstk, rdhdrFinish]
  unfold rdhdrEnd
  split
  · rfl
  · exact endPhase_of_noMacro decompressMacro_ne _ h.macroCmd

/-- The loop of RDHDR as steps. The entries left and the rounds left go down together, so that the arena is full before the
bound is reached. -/
theorem run_readTokens (bound : Nat) {s : State} (h : s.TokenNext .rdhdr) (hcap : s.cfg.nodeCap < 1024)
    (hcount : s.nodeCount.toNat ≤ s.cfg.nodeCap) (hbound : s.nodeCount.toNat + bound = s.cfg.nodeCap + 1) :
    ∃ n, core.run n s = settle ((readTokens bound s).seq rdhdrFinish) := by
  induction bound generalizing s with
  | zero => omega
  | succ bound ih =>
    have hstep := step_readToken h
    rw [readTokens_succ, Res.seq_assoc]
    cases hread : readToken s with
    | stop q t =>
      rw [hread] at hstep
      exact ⟨1, (run_one (M := core) s).trans hstep⟩
    | ok a t =>
      obtain ⟨ht, hcfg⟩ := readToken_part.tokenNext h hread
      obtain ⟨hroom, hnext⟩ := readToken_takes_entry hread
      have hsucc : t.nodeCount.toNat = s.nodeCount.toNat + 1 := hnext ▸ nodeCount_succ hcap (by omega)
      rw [← hcfg] at hcap hcount hbound hroom
      rw [hread, Res.seq_ok] at hstep
      rw [Res.seq_ok, readMore]
      by_cases hstk : t.work.stk = []
      · rw [afterReadToken_of_done ht hstk] at hstep
        rw [if_pos hstk, Res.seq_ok]
        exact ⟨1, (run_one (M := core) s).trans hstep⟩
      · rw [afterReadToken_of_open hstk, settle_ok] at hstep
        rw [if_neg hstk]
        obtain ⟨n, hn⟩ := ih ht (by omega) (by omega) (by omega)
        exact ⟨n + 1, (run_succ_of_step (M := core) hstep n).trans hn⟩

/-! ## WRHDR -/

/-- `s.Unwritten stk n`: the arena holds a tree below each entry of `stk`, of `n` nodes together (R115). -/
inductive State.Unwritten (s : State) : List StkEntry → Nat → Prop where
  | nil : Unwritten s [] 0
  | cons {e : StkEntry} {stk : List StkEntry} {t : Tree} {is : List Idx} {n : Nat} : s.Subtree e.idx t is →
      Unwritten s stk n → Unwritten s (e :: stk) (t.size + n)

theorem State.Unwritten.congr {s u : State} {stk : List StkEntry} {n : Nat} (h : s.Unwritten stk n) (hu : u.node = s.node) :
    u.Unwritten stk n := by
  induction h with
  | nil => exact .nil
  | cons ht _ ih => exact .cons (ht.frame fun j _ => nodeAt_congr hu j) ih

/-- The stack after the token of the node on top of it (R114). -/
def State.stkAfter (s : State) (e : StkEntry) (stk : List StkEntry) : List StkEntry :=
  if (s.nodeAt e.idx).leaf then stk
  else pendingSubtree (s.nodeAt e.idx).left :: pendingSubtree (s.nodeAt e.idx).right :: stk

/-- A token takes one node off what is unwritten. -/
theorem State.Unwritten.next {s : State} {e : StkEntry} {stk : List StkEntry} {n : Nat} (h : s.Unwritten (e :: stk) n) :
    ∃ m, n = m + 1 ∧ s.Unwritten (s.stkAfter e stk) m := by
  obtain _ | ⟨ht, hstk⟩ := h
  cases ht with
  | leaf hl =>
    rw [State.stkAfter, if_pos hl]
    exact ⟨_, Nat.add_comm .., hstk⟩
  | internal hl hleft hright =>
    rw [State.stkAfter, if_neg (hl ▸ Bool.false_ne_true)]
    refine ⟨_, ?_, .cons hleft (.cons hright hstk)⟩
    simp only [Tree.size]
    omega

/-- What a token that is written leaves on the stack; the arena stays. -/
theorem writeToken_goes_on {s t : State} {e : StkEntry} {stk : List StkEntry} (hs : s.work.stk = e :: stk)
    (h : writeToken (s.nodeAt e.idx) s = .ok () t) : t.work.stk = s.stkAfter e stk ∧ t.node = s.node := by
  have hkeeps := writeToken_keeps (s.nodeAt e.idx) s
  rw [h] at hkeeps
  refine ⟨?_, congrArg (fun u => u.node) hkeeps⟩
  rw [State.stkAfter]
  unfold writeToken at h
  split at h
  · next hl =>
    simp only [writeLeafToken, hs] at h
    obtain ⟨u, -, h⟩ := Res.seq_eq_ok.1 h
    obtain ⟨w, -, h⟩ := Res.seq_eq_ok.1 h
    cases h
    exact (if_pos hl).symm
  · next hl =>
    simp only [writeNodeToken, hs] at h
    obtain ⟨u, hu, h⟩ := Res.seq_eq_ok.1 h
    cases h
    have hw := sinkWrite_keeps 1 0#32 s
    rw [hu] at hw
    have hnode : u.node = s.node := congrArg (fun u => u.node) hw
    rw [nodeAt_congr hnode, if_neg hl]
    rfl

/-- A step inside WRHDR is a round of its loop and what follows a token (R115). -/
theorem step_writeToken {s : State} {e : StkEntry} {stk : List StkEntry} (h : s.TokenNext .wrhdr)
    (hs : s.work.stk = e :: stk) :
    step s = settle ((writeToken (s.nodeAt e.idx) s).seq afterWriteToken) := by
  have hfetch : fetchToken s = .run (tokenOf (s.nodeAt e.idx)) s := by simp only [fetchToken, h.phase, hs]
  rw [step_of_busy h.pending h.busy hfetch, tokenOf, writeToken]
  split
  · exact exec_hdrLeaf_of_wrhdr _ h.phase
  · exact exec_hdrNode_of_wrhdr h.phase

/-- With no subtree left the header is at its end, and so is the command. -/
theorem afterWriteToken_of_done {s : State} (h : s.TokenNext .wrhdr) (hstk : s.work.stk = []) :
    afterWriteToken s = .ok () s.complete :=
  (if_pos hstk).trans (endPhase_of_noMacro compressMacro_ne _ h.macroCmd)

/-- The loop of WRHDR with an entry on top of the stack. -/
theorem writeTokens_of_cons (bound : Nat) {s : State} {e : StkEntry} {stk : List StkEntry} (hs : s.work.stk = e :: stk) :
    writeTokens (bound + 1) s = (writeToken (s.nodeAt e.idx) s).seq (writeTokens bound) := by
  rw [writeTokens, hs]

theorem writeTokens_of_nil (bound : Nat) {s : State} (hs : s.work.stk = []) : writeTokens (bound + 1) s = .ok () s := by
  rw [writeTokens, hs]

/-- The loop of WRHDR as steps: it has more rounds left than nodes to write. -/
theorem run_writeTokens (bound : Nat) {s : State} {e : StkEntry} {stk : List StkEntry} {n : Nat} (h : s.TokenNext .wrhdr)
    (hs : s.work.stk = e :: stk) (hn : s.Unwritten (e :: stk) n) (hbound : n < bound) :
    ∃ k, core.run k s = settle ((writeTokens bound s).seq fun t => .ok () t.complete) := by
  induction bound generalizing s e stk n with
  | zero => omega
  | succ bound ih =>
    have hstep := step_writeToken h hs
    rw [writeTokens_of_cons bound hs, Res.seq_assoc]
    cases hwrite : writeToken (s.nodeAt e.idx) s with
    | stop q t =>
      rw [hwrite] at hstep
      exact ⟨1, (run_one (M := core) s).trans hstep⟩
    | ok a t =>
      obtain ⟨ht, -⟩ := (writeToken_part (s.nodeAt e.idx)).tokenNext h hwrite
      obtain ⟨hstk, hnode⟩ := writeToken_goes_on hs hwrite
      obtain ⟨m, rfl, hm⟩ := hn.next
      replace hm : t.Unwritten t.work.stk m := hstk ▸ hm.congr hnode
      rw [hwrite, Res.seq_ok] at hstep
      rw [Res.seq_ok]
      cases htop : t.work.stk with
      | nil =>
        rw [afterWriteToken_of_done ht htop] at hstep
        obtain ⟨bound, rfl⟩ : ∃ b, bound = b + 1 := ⟨bound - 1, by omega⟩
        rw [writeTokens_of_nil bound htop]
        exact ⟨1, (run_one (M := core) s).trans hstep⟩
      | cons e' stk' =>
        rw [afterWriteToken_of_pending (htop ▸ List.cons_ne_nil _ _), settle_ok] at hstep
        obtain ⟨k, hk⟩ := ih ht htop (htop ▸ hm) (by omega)
        exact ⟨k + 1, (run_succ_of_step (M := core) hstep k).trans hk⟩

/-- Settles O44: each loop is as many steps as it makes rounds. -/
theorem headerCommandsAreTheirTokens : Obligations.HeaderCommandsAreTheirTokens := by
  unfold Obligations.HeaderCommandsAreTheirTokens
  refine ⟨fun s hcfg hi hp => ?_, fun s tr hi hp hv ht hsize => ?_⟩
  · obtain ⟨-, hcap, -⟩ := Config.wf_bounds hcfg
    obtain ⟨n, hn⟩ := run_readTokens (s.cfg.nodeCap + 1) (s := rdhdrStart (s.start noMacro)) ⟨rfl, rfl, hp, rfl⟩ hcap
      (Nat.zero_le _) (Nat.zero_add _)
    refine ⟨n, hn.trans ?_⟩
    have hexec : exec .rdhdr s = settle ((rdhdrBody (s.start noMacro)).seq fun t => .ok () t.complete) :=
      accept_of_ready hi rfl
    rw [hexec, rdhdrBody, Res.seq_assoc]
    rfl
  · obtain ⟨is, hs⟩ := subtree_of_treeAt ht
    have htree : (wrhdrStart (s.start noMacro)).Subtree (pendingSubtree s.root).idx tr is := hs.frame fun _ _ => rfl
    obtain ⟨k, hk⟩ := run_writeTokens arenaSize (s := wrhdrStart (s.start noMacro)) ⟨rfl, rfl, hp, rfl⟩ rfl
      (.cons htree .nil) (Nat.lt_succ_of_le hsize)
    have hexec : exec .wrhdr s = settle ((wrhdrBody (s.start noMacro)).seq fun t => .ok () t.complete) :=
      accept_of_ready hi hv
    exact ⟨k, hk.trans hexec.symm⟩

end Sys2Proof.Machine
end

section
/-!
PROOFS of O41 (RdhdrErrors) and O40 (RdhdrConsumesExactlyAHeader). `Tree.Breaks` says, without the machine, how reading the header
of a tree ends early: at the end of the source or at the flag bit for which the arena has no entry. The loop of RDHDR raises
what it says (`readTokens_breaks`), and it holds of every bit string that agrees with the header as far as both go
(`Tree.breaks_of_agree`).

Every bit string begins with a whole header or ends inside one (`header_cases`). So RDHDR succeeds only on the first kind, by O41,
and there it makes the header's tree, by O39. That is of a source which never stalls; a success from a source that answers
only so often is a success from one that always answers (`GoesOnUnstalled`).
-/
namespace Sys2Proof.Machine

/-! ## Bits before a node -/

theorem Tree.bitsBefore_leaf_succ (sym : Sym) (n : Nat) : (Tree.leaf sym).bitsBefore (n + 1) = 10 := by
  simp [Tree.bitsBefore, Tree.tokens]

theorem Tree.bitsBefore_internal_succ (l r : Tree) (n : Nat) :
    (Tree.internal l r).bitsBefore (n + 1) = 1 + l.bitsBefore n + r.bitsBefore (n - l.size) := by
  simp [Tree.bitsBefore, Tree.tokens, List.take_append, Nat.add_assoc]

@[simp] theorem Tree.header_leaf_length (sym : Sym) : (Tree.leaf sym).header.length = 10 := by simp [Tree.header]

@[simp] theorem Tree.header_internal_length (l r : Tree) :
    (Tree.internal l r).header.length = 1 + l.header.length + r.header.length := by
  simp only [Tree.header, List.length_cons, List.length_append]
  omega

/-- A node's flag bit lies inside the header. -/
theorem Tree.bitsBefore_lt (t : Tree) {n : Nat} (h : n < t.size) : t.bitsBefore n < t.header.length := by
  induction t generalizing n with
  | leaf sym =>
    obtain rfl : n = 0 := by simpa [Tree.size] using h
    simp
  | internal l r ihl ihr =>
    cases n with
    | zero => simp
    | succ n =>
      rw [Tree.bitsBefore_internal_succ, Tree.header_internal_length]
      simp only [Tree.size] at h
      by_cases hl : n < l.size
      · have hbefore := ihl hl
        rw [show n - l.size = 0 by omega, Tree.bitsBefore_zero]
        omega
      · have hbefore := ihr (n := n - l.size) (by omega)
        rw [l.bitsBefore_of_size_le (by omega)]
        omega

/-! ## How reading a header ends early -/

/-- `t.Breaks room bits e left`: read from `bits` into an arena with room for `room` more nodes, the header of `t` raises `e`,
and the bits `left` stay unread. -/
inductive Tree.Breaks : Tree → Nat → List Bool → ErrKind → List Bool → Prop where
  /-- The flag bit is there, the entry is not (R125). -/
  | full {t : Tree} {b : Bool} {bits : List Bool} : Breaks t 0 (b :: bits) .treeOverflow bits
  /-- No flag bit is left (R124). -/
  | ended {t : Tree} {room : Nat} : Breaks t room [] .truncatedHeader []
  /-- The symbol of a leaf is not whole (R124). -/
  | short {t : Tree} {room : Nat} {bits : List Bool} : bits.length < 9 →
      Breaks t (room + 1) (true :: bits) .truncatedHeader []
  /-- The node takes an entry, and its left subtree breaks (R123). -/
  | left {l r : Tree} {room : Nat} {bits left : List Bool} {e : ErrKind} : Breaks l room bits e left →
      Breaks (.internal l r) (room + 1) (false :: bits) e left
  /-- The node and its left subtree take their entries, and its right subtree breaks (R123). -/
  | right {l r : Tree} {room : Nat} {bits left : List Bool} {e : ErrKind} : Breaks r room bits e left →
      Breaks (.internal l r) (room + l.size + 1) (false :: (l.header ++ bits)) e left

/-- Bits that agree with a header as far as both go, and either end inside it or meet an arena too small for it: the reading ends
at the end of the bits, or at the first flag bit for which there is no entry, whichever comes first. -/
theorem Tree.breaks_of_agree (t : Tree) (room : Nat) (bits : List Bool) {a b : List Bool} (h : bits ++ a = t.header ++ b)
    (hend : bits.length < t.header.length ∨ room < t.size) :
    (bits.length ≤ t.bitsBefore room → t.Breaks room bits .truncatedHeader []) ∧
    (t.bitsBefore room < bits.length → t.Breaks room bits .treeOverflow (bits.drop (t.bitsBefore room + 1))) := by
  match t, room, bits with
  | t, room, [] => exact ⟨fun _ => .ended, fun hlt => absurd hlt (Nat.not_lt_zero _)⟩
  | t, 0, x :: bits =>
    rw [Tree.bitsBefore_zero]
    exact ⟨fun hle => absurd hle (Nat.not_succ_le_zero _), fun _ => .full⟩
  | .leaf sym, room + 1, x :: bits =>
    obtain ⟨rfl, -⟩ := List.cons.inj h
    simp only [Tree.header_leaf_length, List.length_cons, Tree.size, Tree.bitsBefore_leaf_succ] at hend ⊢
    exact ⟨fun _ => .short (by omega), fun hlt => by omega⟩
  | .internal l r, room + 1, x :: bits =>
    obtain ⟨rfl, hbits⟩ := List.cons.inj h
    have h : bits ++ a = l.header ++ (r.header ++ b) := hbits.trans (List.append_assoc ..)
    simp only [Tree.header_internal_length, List.length_cons, Tree.size, Tree.bitsBefore_internal_succ] at hend ⊢
    by_cases hl : bits.length < l.header.length ∨ room < l.size
    · obtain ⟨htrunc, hfull⟩ := l.breaks_of_agree room bits h hl
      have hbefore : r.bitsBefore (room - l.size) = 0 ∨ bits.length ≤ l.bitsBefore room := by
        by_cases hroom : room < l.size
        · rw [show room - l.size = 0 by omega]
          exact .inl r.bitsBefore_zero
        · rw [l.bitsBefore_of_size_le (by omega)]
          exact .inr (by omega)
      refine ⟨fun hle => .left (htrunc (by omega)), fun hlt => ?_⟩
      rw [show 1 + l.bitsBefore room + r.bitsBefore (room - l.size) + 1 = l.bitsBefore room + 1 + 1 by omega]
      exact .left (hfull (by omega))
    · obtain ⟨as, rfl⟩ : l.header <+: bits :=
        List.prefix_of_prefix_length_le (List.prefix_append ..) (h ▸ List.prefix_append bits a) (by omega)
      obtain ⟨room, rfl⟩ : ∃ n, room = n + l.size := ⟨room - l.size, by omega⟩
      rw [List.append_assoc] at h
      have hr := List.append_cancel_left h
      rw [List.length_append] at hend ⊢
      obtain ⟨htrunc, hfull⟩ := r.breaks_of_agree room as hr (by omega)
      rw [l.bitsBefore_of_size_le (by omega), Nat.add_sub_cancel]
      refine ⟨fun hle => .right (htrunc (by omega)), fun hlt => ?_⟩
      have hdrop : (false :: (l.header ++ as)).drop (1 + l.header.length + r.bitsBefore room + 1) =
          as.drop (r.bitsBefore room + 1) := by
        rw [show 1 + l.header.length + r.bitsBefore room + 1 = l.header.length + (r.bitsBefore room + 1) + 1 by omega,
          List.drop_succ_cons, ← List.drop_drop, List.drop_left]
      rw [hdrop]
      exact .right (hfull (by omega))

/-- Bits that begin no whole header end inside one. -/
theorem header_cases (bits : List Bool) :
    (∃ (t : Tree) (more : List Bool), bits = t.header ++ more) ∨
    ∃ (t : Tree) (more : List Bool), t.header = bits ++ more ∧ more ≠ [] := by
  match bits with
  | [] => exact .inr ⟨.leaf 0#9, _, rfl, List.cons_ne_nil _ _⟩
  | true :: bits =>
    by_cases hlen : 9 ≤ bits.length
    · have hsym := msbBits_ofMsbBits (w := 9) (bits.take 9) (by simp)
      rw [List.length_take_of_le hlen] at hsym
      refine .inl ⟨.leaf (BitVec.ofNat 9 (ofMsbBits 0 (bits.take 9))), bits.drop 9, ?_⟩
      rw [Tree.header, hsym, List.cons_append, List.take_append_drop]
    · have hpad : (bits ++ List.replicate (9 - bits.length) false).length = 9 := by simp; omega
      have hsym := msbBits_ofMsbBits (w := 9) (bits ++ List.replicate (9 - bits.length) false) (by omega)
      rw [hpad] at hsym
      refine .inr ⟨.leaf (BitVec.ofNat 9 (ofMsbBits 0 (bits ++ List.replicate (9 - bits.length) false))),
        List.replicate (9 - bits.length) false, ?_, by simp; omega⟩
      rw [Tree.header, hsym, List.cons_append]
  | false :: bits =>
    rcases header_cases bits with ⟨l, more, hl⟩ | ⟨l, more, hl, hne⟩
    · have hshorter : more.length < bits.length + 1 := by rw [hl, List.length_append]; omega
      rcases header_cases more with ⟨r, more', hr⟩ | ⟨r, more', hr, hne⟩
      · exact .inl ⟨.internal l r, more', by rw [hl, hr, Tree.header]; simp⟩
      · exact .inr ⟨.internal l r, more', by rw [hl, Tree.header, hr]; simp, hne⟩
    · exact .inr ⟨.internal l (.leaf 0#9), more ++ (Tree.leaf 0#9).header, by simp [Tree.header, hl], by simp [hne]⟩
termination_by bits.length

/-! ## The loop of RDHDR ends early -/

/-- A token of which no bit is left (R124). -/
theorem readToken_of_ended {s : State} (hr : s.sourceReady) (h : s.src.rest = []) :
    readToken s = .stop (.raise .truncatedHeader) (s.exhaust 1) := by
  rw [readToken, srcRead_of_short hr (by simp [h])]
  rfl

/-- A token whose node has no entry (R125). -/
theorem readToken_of_full {s : State} {b : Bool} {more : List Bool} (hr : s.sourceReady)
    (hcap : s.nodeCount.toNat = s.cfg.nodeCap) (h : s.src.rest = b :: more) :
    ∃ v, readToken s = .stop (.raise .treeOverflow) (s.advance 1 v) := by
  obtain ⟨v, -, hread⟩ := srcRead_of_bit hr h
  have halloc (n : Node) : alloc n (s.advance 1 v) = .stop (.raise .treeOverflow) (s.advance 1 v) := if_pos hcap
  refine ⟨v, ?_⟩
  rw [readToken, hread, Res.bind_ok]
  dsimp only
  split
  · rw [readLeafRest, openLeaf, halloc, Res.bind_stop]
  · rw [openNode, halloc, Res.bind_stop]

/-- A leaf whose symbol is not whole (R124). -/
theorem readToken_of_short_symbol {s : State} {more : List Bool} (hr : s.sourceReady)
    (hcap : s.nodeCount.toNat ≠ s.cfg.nodeCap) (h : s.src.rest = true :: more) (hshort : more.length < 9) :
    ∃ v, readToken s =
      .stop (.raise .truncatedHeader) (State.exhaust 9 ((s.advance 1 v).grow (leafNode 0#9 0#40))) := by
  obtain ⟨v, hv, hread⟩ := srcRead_of_bit hr h
  have hrest : ((s.advance 1 v).grow (leafNode 0#9 0#40)).src.rest = more := State.advance_rest (bits := [_]) v rfl h
  refine ⟨v, ?_⟩
  rw [readToken, hread, Res.bind_ok]
  dsimp only
  rw [if_pos hv, readLeafRest, openLeaf, alloc_of_room _ (s := s.advance 1 v) hcap, Res.bind_ok,
    srcRead_of_short (s := (s.advance 1 v).grow (leafNode 0#9 0#40)) hr (by rw [hrest]; exact hshort)]
  rfl

/-- A node just opened is followed by another token (R123). -/
theorem readMore_opened (bound : Nat) (s : State) (v : BitVec 32) :
    readMore bound (s.opened v) = readTokens bound (s.opened v) := if_neg (List.cons_ne_nil _ _)

/-- The loop from an internal node to its right child: its flag bit and the header of its left child are read (R123). -/
theorem readTokens_to_right {s : State} {l : Tree} {more : List Bool} (hr : s.sourceReady) (hcap : s.cfg.nodeCap < 1024)
    (hroom : s.nodeCount.toNat + l.size < s.cfg.nodeCap) (h : s.src.rest = false :: (l.header ++ more)) :
    ∃ m, m.src.rest = more ∧ m.sourceReady ∧ m.cfg = s.cfg ∧ m.nodeCount.toNat = s.nodeCount.toNat + l.size + 1 ∧
      ∀ bound, readTokens (bound + l.size + 1) s = readTokens bound m := by
  obtain ⟨v, hread, hrest⟩ := readToken_node hr (by omega) h
  have hopen : (s.opened v).nodeCount.toNat = s.nodeCount.toNat + 1 := nodeCount_succ (s := s) hcap (by omega)
  have hfits : (s.opened v).nodeCount.toNat + l.size ≤ s.cfg.nodeCap := by omega
  obtain ⟨u, hu, hloop⟩ := readTokens_tree l (s := s.opened v) hr hcap hfits hrest
  have hcount := hu.count
  have hsrc := hu.frame.src
  refine ⟨attach (s.opened v).nodeCount (s.opened v).work.stk u, ?_, ?_, hu.frame.cfg, ?_, fun bound => ?_⟩
  · change u.src.rest = more
    rw [hsrc]
    exact State.advance_rest (s := s.opened v) (n := l.header.length) 0#32 rfl hrest
  · change u.src.answers = none
    rw [hsrc]
    exact hr
  · change u.nodeCount.toNat = _
    omega
  · rw [readTokens_succ, hread, Res.seq_ok, readMore_opened, hloop, readMore]
    exact if_neg (List.cons_ne_nil _ _)

/-- The loop raises the error at which the reading of a header ends early, and leaves the same bits unread. -/
theorem readTokens_breaks {t : Tree} {room : Nat} {bits left : List Bool} {e : ErrKind} (h : t.Breaks room bits e left)
    {s : State} (hr : s.sourceReady) (hcap : s.cfg.nodeCap < 1024) (hroom : s.nodeCount.toNat + room = s.cfg.nodeCap)
    (hrest : s.src.rest = bits) :
    ∃ u, readTokens (room + 1) s = .stop (.raise e) u ∧ u.src.pos + left.length = u.src.bits.length := by
  induction h generalizing s with
  | full =>
    obtain ⟨v, hread⟩ := readToken_of_full hr hroom hrest
    refine ⟨_, by rw [readTokens_succ, hread, Res.seq_stop], ?_⟩
    have hlen := congrArg List.length hrest
    rw [Source.rest, List.length_drop, List.length_cons] at hlen
    change s.src.pos + 1 + _ = s.src.bits.length
    omega
  | ended => exact ⟨_, by rw [readTokens_succ, readToken_of_ended hr hrest, Res.seq_stop], rfl⟩
  | short hshort =>
    obtain ⟨v, hread⟩ := readToken_of_short_symbol hr (by omega) hrest hshort
    exact ⟨_, by rw [readTokens_succ, hread, Res.seq_stop], rfl⟩
  | @left l r room bits left e _ ih =>
    obtain ⟨v, hread, hmore⟩ := readToken_node hr (by omega) hrest
    have hopen : (s.opened v).nodeCount.toNat = s.nodeCount.toNat + 1 := nodeCount_succ (s := s) hcap (by omega)
    have hfits : (s.opened v).nodeCount.toNat + room = s.cfg.nodeCap := by omega
    obtain ⟨u, hloop, hpos⟩ := ih (s := s.opened v) hr hcap hfits hmore
    refine ⟨u, ?_, hpos⟩
    rw [readTokens_succ, hread, Res.seq_ok, readMore_opened, hloop]
  | @right l r room bits left e _ ih =>
    obtain ⟨m, hmore, hmr, hcfg, hcount, hskip⟩ := readTokens_to_right hr hcap (by omega) hrest
    obtain ⟨u, hloop, hpos⟩ := ih hmr (hcfg ▸ hcap) (by rw [hcount, hcfg]; omega) hmore
    refine ⟨u, ?_, hpos⟩
    rw [show room + l.size + 1 + 1 = room + 1 + l.size + 1 by omega, hskip, hloop]

/-! ## The errors of RDHDR -/

/-- An accepted command whose body raises an error enters `ERROR` with its code (R176). -/
theorem accept_of_raise {pre : State → Bool} {m : BitVec 2} {body : State → Res Unit} {s u : State} {k : ErrKind}
    (hi : s.isIdle) (hp : pre s = true) (h : body (s.start m) = .stop (.raise k) u) :
    accept pre m body s = .next (raiseErr k u) := by
  rw [accept_of_ready hi hp, h, Res.seq_stop, settle_raise]

/-- RDHDR leaves the sink and the source's bits as they are. -/
theorem exec_rdhdr_streams {s t : State} (h : exec .rdhdr s = .next t) : t.snk = s.snk ∧ t.src.bits = s.src.bits := by
  have hview : t.outsideReading.withoutTree = s.outsideReading.withoutTree := accept_keeps rdhdrBody_keeps h
  exact ⟨congrArg (fun u => u.snk) hview, congrArg (fun u => u.src.bits) hview⟩

/-- RDHDR raises the error at which the reading of a header ends early. -/
theorem exec_rdhdr_of_breaks {s : State} {t : Tree} {left : List Bool} {e : ErrKind} (hcfg : s.cfg.wf = true)
    (hi : s.isIdle) (hr : s.sourceReady) (h : t.Breaks s.cfg.nodeCap s.src.rest e left) :
    ∃ u, exec .rdhdr s = .next u ∧ u.errCode = some e ∧ u.phase = .error ∧
      u.src.pos + left.length = s.src.bits.length ∧ u.snk = s.snk := by
  obtain ⟨-, hcap, -⟩ := Config.wf_bounds hcfg
  obtain ⟨u, hloop, hpos⟩ :=
    readTokens_breaks h (s := rdhdrStart (s.start noMacro)) hr hcap (Nat.zero_add _) rfl
  have hbody : rdhdrBody (s.start noMacro) = .stop (.raise e) u := congrArg (Res.seq · rdhdrEnd) hloop
  have hexec : exec .rdhdr s = .next (raiseErr e u) := accept_of_raise hi rfl hbody
  obtain ⟨hsnk, hbits⟩ := exec_rdhdr_streams hexec
  exact ⟨_, hexec, rfl, rfl, hbits ▸ hpos, hsnk⟩

/-- A header of one leaf is read and then refused (R127). -/
theorem exec_rdhdr_of_leaf {s : State} {sym : Sym} {more : List Bool} (hcfg : s.cfg.wf = true) (hi : s.isIdle)
    (hr : s.sourceReady) (h : s.src.rest = (Tree.leaf sym).header ++ more) :
    ∃ u, exec .rdhdr s = .next u ∧ u.errCode = some .badTree ∧ u.phase = .error ∧ u.src.pos = s.src.pos + 10 ∧
      u.snk = s.snk := by
  obtain ⟨hmin, hcap, -⟩ := Config.wf_bounds hcfg
  have hcount : (rdhdrStart (s.start noMacro)).nodeCount.toNat + (Tree.leaf sym).size ≤ s.cfg.nodeCap := by
    change 0 + 1 ≤ _
    omega
  obtain ⟨u, hu, hloop⟩ := readTokens_tree (.leaf sym) (s := rdhdrStart (s.start noMacro)) hr hcap hcount h
  obtain ⟨is, hs, -⟩ := hu.tree
  have hleaf : (u.nodeAt 0#10).leaf = true := hs.top.1
  have hend : rdhdrEnd (u.setStk []) = .stop (.raise .badTree) (u.setStk []) := if_pos hleaf
  have hbody : rdhdrBody (s.start noMacro) = .stop (.raise .badTree) (u.setStk []) :=
    (congrArg (Res.seq · rdhdrEnd) (hloop s.cfg.nodeCap)).trans hend
  have hexec : exec .rdhdr s = .next (raiseErr .badTree (u.setStk [])) := accept_of_raise hi rfl hbody
  have hpos : u.src.pos = s.src.pos + 10 := by
    rw [hu.frame.src, Tree.header_leaf_length]
    rfl
  exact ⟨_, hexec, rfl, rfl, hpos, (exec_rdhdr_streams hexec).1⟩

/-- Settles O41: a source that ends inside a header and a header too large for the arena are the two ways of
`Tree.breaks_of_agree`. -/
theorem rdhdrErrors : Obligations.RdhdrErrors := by
  unfold Obligations.RdhdrErrors
  intro s hcfg hi hr
  have hrest : s.src.rest.length = s.src.bits.length - s.src.pos := List.length_drop
  refine ⟨fun tr more hfits h hne => ?_, fun tr more hsize h => ?_, fun sym more => exec_rdhdr_of_leaf hcfg hi hr⟩
  · have hinside : s.src.rest.length < tr.header.length := by
      have hmore := List.length_pos_of_ne_nil hne
      rw [h, List.length_append]
      omega
    have hbefore : s.src.rest.length ≤ tr.bitsBefore s.cfg.nodeCap := by
      rcases hfits with hfits | hbefore
      · exact (tr.bitsBefore_of_size_le hfits).symm ▸ hinside.le
      · exact hbefore
    have hagree : s.src.rest ++ more = tr.header ++ [] := by rw [h, List.append_nil]
    exact exec_rdhdr_of_breaks hcfg hi hr ((tr.breaks_of_agree _ _ hagree (.inl hinside)).1 hbefore)
  · have hinside := tr.bitsBefore_lt hsize
    obtain ⟨a, b, hagree, hbefore⟩ :
        ∃ a b, s.src.rest ++ a = tr.header ++ b ∧ tr.bitsBefore s.cfg.nodeCap < s.src.rest.length := by
      rcases h with h | ⟨h, hbefore⟩
      · exact ⟨[], more, by rw [h, List.append_nil], by rw [h, List.length_append]; omega⟩
      · exact ⟨more, [], by rw [h, List.append_nil], hbefore⟩
    obtain ⟨u, hexec, herr, hphase, hpos, hsnk⟩ :=
      exec_rdhdr_of_breaks hcfg hi hr ((tr.breaks_of_agree _ _ hagree (.inr hsize)).2 hbefore)
    rw [List.length_drop] at hpos
    exact ⟨u, hexec, herr, hphase, by omega, hsnk⟩

/-! ## A success does not need the stalls that did not come -/

/-- The state with a source that never stalls. -/
def State.unstalled (s : State) : State := { s with src := { s.src with answers := none } }

/-- Where `c` goes on, it goes on in the same way from a source that never stalls. -/
def GoesOnUnstalled {α : Type} (c : State → Res α) : Prop :=
  ∀ (s t : State) (a : α), c s = .ok a t → c s.unstalled = .ok a t.unstalled

theorem GoesOnUnstalled.bind {α β : Type} {c : State → Res α} {k : α → State → Res β} (hc : GoesOnUnstalled c)
    (hk : ∀ a, GoesOnUnstalled (k a)) : GoesOnUnstalled fun s => (c s).bind k := fun s t b h => by
  obtain ⟨a, u, hu, ht⟩ := Res.bind_eq_ok.1 h
  dsimp only
  rw [hc s u a hu, Res.bind_ok, hk a u t b ht]

theorem GoesOnUnstalled.seq {c d : State → Res Unit} (hc : GoesOnUnstalled c) (hd : GoesOnUnstalled d) :
    GoesOnUnstalled fun s => (c s).seq d := hc.bind fun _ => hd

/-- A part that raises an error does not go on. -/
theorem goesOnUnstalled_raise {α : Type} (k : ErrKind) : GoesOnUnstalled fun s => (.stop (.raise k) s : Res α) :=
  fun _ _ _ h => by cases h

theorem srcRead_goesOnUnstalled (n : Nat) : GoesOnUnstalled (srcRead n) := fun s t a h => by
  have hpeek : s.unstalled.src.peek n = s.src.peek n := rfl
  rcases srcRead_cases n s with ⟨-, e⟩ | ⟨v, -, hp, e⟩ | ⟨-, hp, e⟩
  · rw [e] at h
    cases h
  · rw [e] at h
    cases h
    rw [srcRead, hpeek, hp]
    rfl
  · rw [e] at h
    cases h
    rw [srcRead, hpeek, hp]
    rfl

theorem alloc_goesOnUnstalled (n : Node) : GoesOnUnstalled (alloc n) := fun s t i h => by
  obtain ⟨hroom, -⟩ := alloc_eq_ok h
  rw [alloc_of_room n hroom] at h
  cases h
  exact alloc_of_room n (s := s.unstalled) hroom

theorem attach_unstalled (i : Idx) (stk : List StkEntry) (s : State) :
    attach i stk s.unstalled = (attach i stk s).unstalled := by
  induction stk generalizing i s with
  | nil => rfl
  | cons e rest ih =>
    unfold attach
    split
    · exact ih e.idx (s.setNode e.idx { s.nodeAt e.idx with right := i })
    · rfl

theorem closeLeaf_goesOnUnstalled (i : Idx) (sym : Sym) : GoesOnUnstalled fun s => .ok () (closeLeaf i sym s) :=
  fun s t a h => by
    cases h
    exact congrArg (Res.ok ()) (attach_unstalled i s.work.stk (s.setNode i { s.nodeAt i with sym := sym }))

theorem openNode_goesOnUnstalled : GoesOnUnstalled openNode :=
  (alloc_goesOnUnstalled _).bind fun _ _ _ _ h => by
    cases h
    rfl

theorem readLeafRest_goesOnUnstalled : GoesOnUnstalled readLeafRest :=
  (alloc_goesOnUnstalled _).bind fun i => (srcRead_goesOnUnstalled 9).bind fun v => by
    cases v with
    | none => exact goesOnUnstalled_raise _
    | some w => exact closeLeaf_goesOnUnstalled i _

theorem readToken_goesOnUnstalled : GoesOnUnstalled readToken :=
  (srcRead_goesOnUnstalled 1).bind fun f => by
    cases f with
    | none => exact goesOnUnstalled_raise _
    | some v =>
      dsimp only
      split
      · exact readLeafRest_goesOnUnstalled
      · exact openNode_goesOnUnstalled

theorem readTokens_goesOnUnstalled (bound : Nat) : GoesOnUnstalled (readTokens bound) := by
  induction bound with
  | zero =>
    intro s t a h
    cases h
  | succ bound ih =>
    refine readToken_goesOnUnstalled.seq fun s t a h => ?_
    by_cases hstk : s.work.stk = []
    · rw [if_pos hstk] at h
      cases h
      exact if_pos hstk
    · rw [if_neg hstk] at h
      exact (if_neg hstk).trans (ih s t a h)

theorem rdhdrEnd_goesOnUnstalled : GoesOnUnstalled rdhdrEnd := fun s t a h => by
  unfold rdhdrEnd at h
  split at h
  · cases h
  · next hleaf =>
    cases h
    exact if_neg hleaf

theorem rdhdrBody_goesOnUnstalled : GoesOnUnstalled rdhdrBody := fun s t a h =>
  ((readTokens_goesOnUnstalled _).seq rdhdrEnd_goesOnUnstalled) (rdhdrStart s) t a h

/-! ## The successes of RDHDR -/

/-- RDHDR leaves the CORE idle only by its end: not by an error and not where it stalls. -/
theorem rdhdrBody_ok_of_idle {s t : State} (hi : s.isIdle) (h : exec .rdhdr s = .next t) (ht : t.phase = .idle) :
    ∃ u, rdhdrBody (s.start noMacro) = .ok () u ∧ t = u.complete := by
  obtain ⟨hbusy, hphase⟩ := hi
  rcases accept_cases h with ⟨hb | hp, -⟩ | ⟨-, -, hready, -⟩ | ⟨-, -, -, hok | hstall | ⟨k, u, -, rfl⟩⟩
  · exact absurd hb (by rw [hbusy]; exact Bool.false_ne_true)
  · exact absurd hp (by rw [hphase]; exact nofun)
  · cases hready
  · exact hok
  · exact absurd ht ((rdhdrBody_passes (start_active s noMacro)).stalls t hstall)
  · cases ht

/-- A success of RDHDR is one from a source that never stalls. -/
theorem exec_rdhdr_unstalled {s t : State} (hi : s.isIdle) (h : exec .rdhdr s = .next t) (ht : t.phase = .idle) :
    exec .rdhdr s.unstalled = .next t.unstalled := by
  obtain ⟨u, hbody, rfl⟩ := rdhdrBody_ok_of_idle hi h ht
  exact accept_of_ok (s := s.unstalled) hi rfl (rdhdrBody_goesOnUnstalled _ _ _ hbody)

/-- An outcome in `IDLE` is not also one in `ERROR`. -/
theorem not_error_of_idle {o : Host.Outcome State Fault Refusal} {t : State} (h : o = .next t) (ht : t.phase = .idle) :
    ¬ ∃ u, o = .next u ∧ u.phase = .error := by
  rintro ⟨u, hu, hphase⟩
  rw [h] at hu
  cases hu
  rw [ht] at hphase
  cases hphase

/-- From a source that never stalls, RDHDR succeeds only on the header of a tree that fits the arena and is no lone leaf. -/
theorem header_of_rdhdr_ok {s t : State} (hcfg : s.cfg.wf = true) (hi : s.isIdle) (hr : s.sourceReady)
    (h : exec .rdhdr s = .next t) (ht : t.phase = .idle) :
    ∃ (tr : Tree) (more : List Bool),
      s.src.rest = tr.header ++ more ∧ tr.isInternal = true ∧ tr.size ≤ s.cfg.nodeCap := by
  have hno := not_error_of_idle h ht
  obtain ⟨htruncated, hoverflow, hlone⟩ := rdhdrErrors s hcfg hi hr
  rcases header_cases s.src.rest with ⟨tr, more, hrest⟩ | ⟨tr, more, hrest, hne⟩
  · by_cases hsize : tr.size ≤ s.cfg.nodeCap
    · cases tr with
      | leaf sym =>
        obtain ⟨u, hu, -, hphase, -⟩ := hlone sym more hrest
        exact absurd ⟨u, hu, hphase⟩ hno
      | internal l r => exact ⟨_, more, hrest, rfl, hsize⟩
    · obtain ⟨u, hu, -, hphase, -⟩ := hoverflow tr more (by omega) (.inl hrest)
      exact absurd ⟨u, hu, hphase⟩ hno
  · by_cases hfits : tr.size ≤ s.cfg.nodeCap ∨ s.src.rest.length ≤ tr.bitsBefore s.cfg.nodeCap
    · obtain ⟨u, hu, -, hphase, -⟩ := htruncated tr more hfits hrest hne
      exact absurd ⟨u, hu, hphase⟩ hno
    · obtain ⟨u, hu, -, hphase, -⟩ := hoverflow tr more (by omega) (.inr ⟨hrest, by omega⟩)
      exact absurd ⟨u, hu, hphase⟩ hno

/-- Settles O40: the source of a success begins with the header of a tree, and by O39 RDHDR makes that tree and reads its
header. -/
theorem rdhdrConsumesExactlyAHeader : Obligations.RdhdrConsumesExactlyAHeader := by
  unfold Obligations.RdhdrConsumesExactlyAHeader
  intro s t hcfg hi h ht
  have hexec := exec_rdhdr_unstalled hi h ht
  obtain ⟨tr, more, hrest, hint, hsize⟩ := header_of_rdhdr_ok (s := s.unstalled) hcfg hi rfl hexec ht
  obtain ⟨u, hu, htree, -, -, -, hsrc, -⟩ := rdhdrReadsTheHeader s.unstalled tr more hcfg hi rfl hrest hint hsize
  rw [hexec] at hu
  cases hu
  refine ⟨tr, (tree_congr t.unstalled t rfl rfl).trans htree, hint, ?_⟩
  have hmore : t.unstalled.src.rest = more := by
    rw [hsrc]
    exact State.advance_rest (s := s.unstalled) (n := tr.header.length) 0#32 rfl hrest
  exact hrest.trans (congrArg (tr.header ++ ·) hmore.symm)

end Sys2Proof.Machine
end

section
/-!
PROOFS of O46 (EncbodyWritesTheCodes) and O47 (EncbodyStopsAtAWordWithoutACode): the loop of ENCBODY up to the end of the source, and
up to the first word without a code (spec/45_body_encoder.md R131 to R134).
-/
namespace Sys2Proof.Machine

/-- Settles O46: the loop writes the words' codes and finds the end of the source; the terminator's code follows once. -/
theorem encbodyWritesTheCodes : Obligations.EncbodyWritesTheCodes := by
  unfold Obligations.EncbodyWritesTheCodes
  intro s hi hr hk hv hcodes
  obtain ⟨u, hu, hm⟩ := encbodyBody_completes (s := s.start noMacro) hr hk hcodes
  have hsnk := hm.snk
  rw [← List.append_assoc] at hsnk
  exact ⟨_, accept_of_ok hi hv hu, hsnk, hm.src, rfl, rfl, hm.freqValid, rfl, rfl, rfl⟩

/-- The loop ends at a word without a code: the word is read and nothing is written for it (R134). -/
theorem encodeLoop_uncoded {s : State} {x : BitVec 8} {xs : List (BitVec 8)} (hr : s.sourceReady) (hw : s.words = x :: xs)
    (hx : s.codeLenAt x.toNat = 0#9) (bound : Nat) :
    encodeLoop (bound + 1) s = .stop (.raise .noCode) (s.advance 8 (x.setWidth 32)) := by
  have hword : encodeWord x (s.advance 8 (x.setWidth 32)) = .stop (.raise .noCode) (s.advance 8 (x.setWidth 32)) := if_pos hx
  rw [encodeLoop, (srcRead_of_words_cons hr hw).1, Res.bind_ok]
  dsimp only
  rw [setWidth_setWidth_byte, hword, Res.seq_stop]

/-- The loop up to the first word without a code: the codes of the words before it are written, the word itself is read (R133,
R134). -/
theorem encodeLoop_stops {before after : List (BitVec 8)} {x : BitVec 8} {s : State} (hr : s.sourceReady) (hk : s.sinkReady)
    (hw : s.words = before ++ x :: after) (hx : s.codeLenAt x.toNat = 0#9)
    (hcodes : ∀ y ∈ before, s.codeLenAt y.toNat ≠ 0#9) {bound : Nat} (hb : before.length < bound) :
    ∃ u, encodeLoop bound s = .stop (.raise .noCode) u ∧
      s.Moved (s.src.pos + 8 * (before.length + 1)) (before.flatMap fun y => s.codeOf y.toNat) u := by
  obtain ⟨bound, rfl⟩ := Nat.exists_eq_add_one_of_ne_zero (Nat.ne_of_gt (Nat.zero_lt_of_lt hb))
  induction before generalizing s bound with
  | nil => exact ⟨_, encodeLoop_uncoded hr hw hx bound, s.moved_advance 8 _⟩
  | cons y ys ih =>
    obtain ⟨t, ht, hm⟩ := emitBits_writes (s.codeOf y.toNat) (s := s.advance 8 (y.setWidth 32)) hk
    have hst := (s.moved_advance 8 (y.setWidth 32)).trans hm
    have hpos : t.src.pos = s.src.pos + 8 := congrArg Source.pos hst.src
    have hys : t.words = ys ++ x :: after := by
      rw [State.words, hm.src]
      exact (srcRead_of_words_cons hr hw).2
    obtain ⟨bound, rfl⟩ := Nat.exists_eq_add_one_of_ne_zero (n := bound) (by simp at hb; omega)
    obtain ⟨u, hu, hmu⟩ := ih (hst.sourceReady hr) (hst.sinkReady hk) hys ((hst.codeLenAt _).trans hx)
      (fun z hz => hst.codeLenAt _ ▸ hcodes z (List.mem_cons_of_mem y hz)) bound (by simpa using hb)
    simp only [hst.codeOf, hpos] at hmu
    have hend : s.src.pos + 8 + 8 * (ys.length + 1) = s.src.pos + 8 * ((y :: ys).length + 1) := by
      rw [List.length_cons]
      omega
    refine ⟨u, ?_, hend ▸ hst.trans hmu⟩
    rw [encodeLoop_word hr hw (hcodes y List.mem_cons_self), emitCode]
    exact (congrArg (Res.seq · _) ht).trans hu

/-- Settles O47: the error ends the loop at the word, and neither the terminator nor a close follows it. -/
theorem encbodyStopsAtAWordWithoutACode : Obligations.EncbodyStopsAtAWordWithoutACode := by
  unfold Obligations.EncbodyStopsAtAWordWithoutACode
  intro s before after x hi hr hk hv hw hx hcodes
  have hb : before.length < (s.start noMacro).src.bits.length + 1 := by
    have h := words_length_lt s
    rw [hw, List.length_append] at h
    exact Nat.lt_of_le_of_lt (Nat.le_add_right _ _) h
  obtain ⟨u, hu, hm⟩ := encodeLoop_stops (s := { s.start noMacro with phase := .encbody }) hr hk hw hx hcodes hb
  have hbody : encbodyBody (s.start noMacro) = .stop (.raise .noCode) u := by
    rw [encbodyBody, hu, Res.seq_stop, Res.seq_stop]
  exact ⟨_, accept_of_raise hi hv hbody, rfl, rfl, hm.snk, congrArg Source.pos hm.src⟩

end Sys2Proof.Machine
end

section
/-!
PROOF of O50 (BodyFrames). ENCBODY and DECBODY read and write: their parts keep the view that blanks what reading commands change
(`State.outsideReading`) and what writing commands change (`State.outsideWriting`), DECBODY's with the cursor blanked too.
-/
namespace Sys2Proof.Machine

/-- The state with all blanked that the body commands both may change. -/
def State.outsideBody (s : State) : State := s.outsideReading.outsideWriting

/-- The state with the cursor blanked. -/
def State.withoutCursor (s : State) : State := { s with cursor := 0#10 }

theorem srcRead_keepsOutsideBody (n : Nat) : Keeps State.outsideBody (srcRead n) :=
  (srcRead_keeps n).view State.outsideWriting

theorem sinkWrite_keepsOutsideBody (n : Nat) (v : BitVec 32) : Keeps State.outsideBody (sinkWrite n v) :=
  (sinkWrite_keeps n v).view State.outsideReading

/-! ## ENCBODY -/

theorem emitBits_keeps (bits : List Bool) : Keeps State.outsideBody (emitBits bits) := by
  induction bits with
  | nil => exact fun _ => rfl
  | cons b bs ih => exact (sinkWrite_keepsOutsideBody 1 _).seq ih

theorem emitCode_keeps (sym : Nat) : Keeps State.outsideBody (emitCode sym) := fun s => emitBits_keeps (s.codeOf sym) s

theorem encodeWord_keeps (x : BitVec 8) : Keeps State.outsideBody (encodeWord x) := fun s => by
  unfold encodeWord
  split
  · rfl
  · exact emitCode_keeps _ s

theorem encodeLoop_keeps (bound : Nat) : Keeps State.outsideBody (encodeLoop bound) := by
  induction bound with
  | zero => exact fun _ => rfl
  | succ bound ih =>
    refine (srcRead_keepsOutsideBody 8).bind fun v => ?_
    cases v with
    | none => exact fun _ => rfl
    | some w => exact (encodeWord_keeps _).seq ih

theorem encbodyBody_keeps : Keeps State.outsideBody encbodyBody := fun s => by
  have hend : Keeps State.outsideBody fun s => .ok () { s with codesValid := false, treeValid := false } := fun _ => rfl
  exact (((encodeLoop_keeps _).seq (emitCode_keeps 256)).seq hend) { s with phase := .encbody }

/-! ## DECBODY -/

theorem writeDecoded_keeps : Keeps (fun s => s.outsideBody.withoutCursor) writeDecoded := fun s => by
  have hend : Keeps (fun s => s.outsideBody.withoutCursor) fun s => .ok () { s with cursor := s.root } := fun _ => rfl
  exact ((sinkWrite_keepsOutsideBody 8 _).view State.withoutCursor).seq hend s

theorem decodeLoop_keeps (bound : Nat) : Keeps (fun s => s.outsideBody.withoutCursor) (decodeLoop bound) := by
  induction bound with
  | zero => exact fun _ => rfl
  | succ bound ih =>
    refine ((srcRead_keepsOutsideBody 1).view State.withoutCursor).bind fun v => ?_
    cases v with
    | none => exact fun _ => rfl
    | some b =>
      intro t
      dsimp only
      split
      · split
        · rfl
        · exact writeDecoded_keeps.seq ih (moveCursor (b.getLsbD 0) t)
      · exact ih (moveCursor (b.getLsbD 0) t)

theorem decbodyBody_keeps : Keeps (fun s => s.outsideBody.withoutCursor) decbodyBody := fun s => by
  have hend : Keeps (fun s => s.outsideBody.withoutCursor) fun s => .ok () { s with treeValid := false, codesValid := false } :=
    fun _ => rfl
  exact ((decodeLoop_keeps _).seq hend) { s with phase := .decbody, cursor := s.root }

/-! ## The frames -/

/-- `s` with the cursor of `t`. -/
def State.withCursorOf (t s : State) : State := { s with cursor := t.cursor }

/-- Settles O50: a next state is its own view with what was blanked put back, and its view is that of the state before. -/
theorem bodyFrames : Obligations.BodyFrames := by
  unfold Obligations.BodyFrames
  refine ⟨fun s t h => ?_, fun s t h => ?_⟩
  · have hview : t.outsideBody = s.outsideBody := accept_keeps encbodyBody_keeps h
    have hframe := congrArg (fun u => t.withReadingOf (t.withWritingOf u)) hview
    exact hframe
  · have hview : t.outsideBody.withoutCursor = s.outsideBody.withoutCursor :=
      accept_keeps (f := fun u => u.outsideWriting.withoutCursor) decbodyBody_keeps h
    have hframe := congrArg (fun u => t.withReadingOf (t.withWritingOf (t.withCursorOf u))) hview
    exact hframe

end Sys2Proof.Machine
end

section
/-!
PROOF of O59 (RoundTrip): the body of words decodes to the words along the tree whose codes it is made of (`Tree.decodes_body`), and
that tree, made from at most 257 symbols, fits every arena. So by O57 and O58 DECOMPRESS gives the bytes back.
-/
namespace Sys2Proof.Machine

/-! ## The body of some words decodes to them -/

/-- The path to a leaf leads to it, whatever bits come after (R106, R139). -/
theorem Tree.follow_code {t : Tree} {x : Sym} {c : List Bool} (h : (x, c) ∈ t.codes) (rest : List Bool) :
    t.follow (c ++ rest) = some (x, rest) := by
  induction t generalizing c with
  | leaf s =>
    obtain ⟨rfl, rfl⟩ := Prod.mk.inj (List.mem_singleton.1 h)
    rfl
  | internal l r ihl ihr =>
    simp only [Tree.codes, List.mem_append, List.mem_map, Prod.exists, Prod.mk.injEq] at h
    rcases h with ⟨_, d, hd, rfl, rfl⟩ | ⟨_, d, hd, rfl, rfl⟩
    · exact ihl hd
    · exact ihr hd

theorem Tree.follow_codeOf {t : Tree} {x : Sym} (h : x ∈ t.leaves) (rest : List Bool) :
    t.follow (t.codeOf x ++ rest) = some (x, rest) := by
  rcases t.codeOf_cases x with hmem | ⟨hx, -⟩
  · exact Tree.follow_code hmem rest
  · exact absurd h hx

/-- A byte is not changed by being a symbol in between (R142). -/
theorem setWidth_nine_setWidth_byte (x : BitVec 8) : (x.setWidth 9).setWidth 8 = x := by
  rw [BitVec.setWidth_setWidth_of_le _ (by decide), BitVec.setWidth_eq]

/-- The body of some words decodes to them and ends behind the terminator (R135, R145). -/
theorem Tree.decodes_body {t : Tree} {words : List (BitVec 8)} (hwords : ∀ x ∈ words, x.setWidth 9 ∈ t.leaves)
    (heos : eosSym ∈ t.leaves) (rest : List Bool) : t.Decodes (t.body words ++ rest) words rest := by
  induction words with
  | nil => exact .stop (Tree.follow_codeOf heos rest)
  | cons x xs ih =>
    have hbody : t.body (x :: xs) ++ rest = t.codeOf (x.setWidth 9) ++ (t.body xs ++ rest) := by simp [Tree.body]
    have hword := Tree.follow_codeOf (hwords x List.mem_cons_self) (t.body xs ++ rest)
    have hdec := Tree.Decodes.word hword (setWidth_byte_ne_eos x) (ih fun y hy => hwords y (List.mem_cons_of_mem x hy))
    rwa [setWidth_nine_setWidth_byte, ← hbody] at hdec

/-! ## The tree of COMPRESS fits every arena -/

/-- A tree over the alphabet, each symbol once, has at most 513 nodes (R5, R100). -/
theorem Tree.size_le_nodeCap {t : Tree} {c : Config} (hcfg : c.wf = true) (h : BuiltLeaves t.leaves) : t.size ≤ c.nodeCap := by
  have hcap := (Config.wf_bounds hcfg).1
  have hlen := h.length_le
  have hsize := t.header_length.1
  omega

/-- The leaves that O57 gives the tree of COMPRESS are symbols of the alphabet. -/
theorem toNat_le_of_compressLeaf {s : State} (hcfg : s.cfg.wf = true) {y : Sym}
    (h : y = eosSym ∨ (∃ x ∈ s.words, y = x.setWidth 9) ∨ (s.words = [] ∧ y = s.cfg.placeholderSym)) : y.toNat ≤ 256 := by
  rcases h with rfl | ⟨x, -, rfl⟩ | ⟨-, rfl⟩
  · decide
  · rw [BitVec.toNat_setWidth]
    exact (Nat.mod_le _ _).trans (by have := x.isLt; omega)
  · exact (Config.wf_bounds hcfg).2.2.le

/-! ## A command that completes leaves the error code -/

/-- The two registers by which a command shows how it ended (R12, R153). -/
def State.errDone (s : State) : Option ErrKind × Bool := (s.errCode, s.done)

theorem IsPart.keepsErrDone {α : Type} {c : State → Res α} (h : IsPart State.control c) : Keeps State.errDone c := fun s =>
  (h id id s).kept.mono fun _ ⟨hv, _⟩ => (congrArg State.errDone hv :)

theorem rdmagicBody_keepsErrDone : Keeps State.errDone rdmagicBody := fun s =>
  readMagic_part.keepsErrDone { s with phase := .rdmagic }

theorem rdhdrEnd_keepsErrDone : Keeps State.errDone rdhdrEnd := fun s => by
  unfold rdhdrEnd
  split
  · rfl
  · rfl

theorem rdhdrBody_keepsErrDone : Keeps State.errDone rdhdrBody := fun s =>
  ((readTokens_part _).keepsErrDone.seq rdhdrEnd_keepsErrDone) (rdhdrStart s)

theorem decbodyBody_keepsErrDone : Keeps State.errDone decbodyBody := fun s => by
  have hend : Keeps State.errDone fun s => .ok () { s with treeValid := false, codesValid := false } := fun _ => rfl
  exact ((decodeLoop_part _).keepsErrDone.seq hend) { s with phase := .decbody, cursor := s.root }

theorem closeBody_keepsErrDone : Keeps State.errDone closeBody := fun s =>
  sinkClose_part.keepsErrDone { s with phase := .close }

theorem decompressBody_keepsErrDone : Keeps State.errDone decompressBody :=
  rdmagicBody_keepsErrDone.seq (rdhdrBody_keepsErrDone.seq (decbodyBody_keepsErrDone.seq closeBody_keepsErrDone))

/-- A command that ends with `done` set has raised no error and has not stalled (R153, R176, R201). -/
theorem accept_errCode_of_done {pre : State → Bool} {m : BitVec 2} {body : State → Res Unit} {s t : State}
    (hbody : Keeps State.errDone body) (h : accept pre m body s = .next t) (hd : t.done = true) :
    t.errCode = s.errCode := by
  have hends := hbody (s.start m)
  rcases accept_cases h with ⟨-, rfl⟩ | ⟨-, -, -, rfl⟩ | ⟨-, -, -, ⟨u, hu, rfl⟩ | hu | ⟨k, u, -, rfl⟩⟩
  · rfl
  · cases hd
  · rw [hu] at hends
    exact congrArg Prod.fst hends
  · rw [hu] at hends
    have hdone : t.done = false := congrArg Prod.snd hends
    rw [hdone] at hd
    cases hd
  · cases hd

/-! ## The round trip -/

theorem bitsOfBytes_length (bytes : List (BitVec 8)) : (bitsOfBytes bytes).length = 8 * bytes.length := by
  induction bytes with
  | nil => rfl
  | cons x xs ih =>
    have hcons : bitsOfBytes (x :: xs) = msbBits 8 x ++ bitsOfBytes xs := rfl
    rw [hcons, List.length_append, msbBits_length, ih, List.length_cons]
    omega

/-- Whole bytes take no padding (R45). -/
theorem padding_of_bytes {bytes : List (BitVec 8)} {n : Nat} (hn : n < 8) {p : Bool}
    (h : (bitsOfBytes bytes ++ List.replicate n p).length % 8 = 0) : n = 0 := by
  rw [List.length_append, bitsOfBytes_length, List.length_replicate] at h
  omega

/-- A source at its start has everything still to be read. -/
theorem Source.rest_of_start {src : Source} (h : src.pos = 0) : src.rest = src.bits := by rw [Source.rest, h, List.drop_zero]

/-- Settles O59: by O57 the file is magic, header and body of a tree, which fits the other arena; by O58 its body is decoded. -/
theorem roundTrip : Obligations.RoundTrip := by
  unfold Obligations.RoundTrip
  intro xs s t d hcfg hdcfg hmagic hi hr hk hbits hpos hempty hmax ht hdi hdr hdk hdbits hdpos hdempty
  have hwords : s.words = xs := by
    have hbytes := bytesOf_bitsOfBytes xs (tail := []) (by decide)
    rwa [List.append_nil, ← hbits, ← Source.rest_of_start hpos] at hbytes
  obtain ⟨t', a, b, tr, n, hexec, -, -, -, -, -, hint, hleaves, heos, hnd, hof, hfile, -⟩ :=
    compressWritesTheFile s hcfg hi hr hk hpos (hwords ▸ hmax)
  rw [ht] at hexec
  cases hexec
  have hbuilt : BuiltLeaves tr.leaves := ⟨hnd, fun y hy => toNat_le_of_compressLeaf hcfg (hof y hy), heos⟩
  have hrest : d.src.rest =
      msbBits 32 d.cfg.magic ++ tr.header ++ (tr.body xs ++ List.replicate n s.cfg.padBit) := by
    rw [Source.rest_of_start hdpos, hdbits, hfile, hempty, hmagic, hwords]
    simp [fileBits]
  have hdec := Tree.decodes_body (hwords ▸ hleaves) heos (List.replicate n s.cfg.padBit)
  obtain ⟨u, k, hu, hout, hk8, hlen, hclosed, -, -, -, hdone, -⟩ := decompressReadsAFile d tr _ _ xs hdcfg hdi hdr hdk
    hrest hint (Tree.size_le_nodeCap hdcfg hbuilt) hdec
  rw [hdempty, List.nil_append] at hout
  rw [hout] at hlen
  rw [padding_of_bytes hk8 hlen, List.replicate_zero, List.append_nil] at hout
  exact ⟨u, hu, hout, hclosed, accept_errCode_of_done decompressBody_keepsErrDone hu hdone, hdone⟩

end Sys2Proof.Machine
end

section
/-!
PROOFS of O48 (DecbodyWritesTheDecodedBytes) and O49 (DecbodyEndsOrRunsOut): the loop of DECBODY up to the end of a source that
holds no terminator, and the two ways in which the reading of a body ends (spec/46_body_decoder.md R139 to R144).
-/
namespace Sys2Proof.Machine

/-- The start of a command leaves the tree that the arena holds. -/
theorem State.start_tree (s : State) (m : BitVec 2) : (s.start m).tree = s.tree := tree_congr s (s.start m) rfl rfl

/-- Settles O48: the loop stops behind the terminator, and the end of the command discards the tree. -/
theorem decbodyWritesTheDecodedBytes : Obligations.DecbodyWritesTheDecodedBytes := by
  unfold Obligations.DecbodyWritesTheDecodedBytes
  intro s tr out more hi hr hk hv ht hint hd
  obtain ⟨u, pos, hu, hm, hmore⟩ := decbodyBody_completes (s := s.start noMacro) hr hk ((s.start_tree _).trans ht) hint hd
  have hbits := congrArg Source.bits hm.src
  exact ⟨_, accept_of_ok hi hv hu, hm.snk, hbits, hmore, rfl, rfl, hm.freqValid, rfl, rfl, rfl⟩

/-! ## A source that ends before the terminator -/

/-- At the end of the source the loop raises its error (R141). -/
theorem decodeLoop_of_rest_nil {s : State} (hr : s.sourceReady) (h : s.src.rest = []) (bound : Nat) :
    decodeLoop (bound + 1) s = .stop (.raise .truncatedBody) (s.exhaust 1) := by
  rw [decodeLoop, srcRead_of_short hr (by simp [h]), Res.bind_ok]

/-- A pass whose bit leads to an internal node goes on from there (R140). -/
theorem decodeLoop_descend {s : State} {l r : Tree} {is : List Idx} {b : Bool} {bits : List Bool}
    (ht : s.Subtree s.cursor (.internal l r) is) (hr : s.sourceReady) (hbits : s.src.rest = b :: bits)
    (hint : (if b then r else l).isInternal = true) :
    ∃ w js, s.Moved (s.src.pos + 1) [] w ∧ w.src.rest = bits ∧ w.Subtree w.cursor (if b then r else l) js ∧
      ∀ bound, decodeLoop (bound + 1) s = decodeLoop bound w := by
  obtain ⟨w, hm, hrest, hc, hpass⟩ := decodeLoop_bit hr hbits
  obtain ⟨js, hchild⟩ := ht.child b
  rw [← hc] at hchild
  replace hchild := hchild.frame fun j _ => nodeAt_congr hm.node j
  have hinner : (w.nodeAt w.cursor).leaf = false := by rw [hchild.top.1, hint, Bool.not_true]
  exact ⟨w, js, hm, hrest, hchild, fun bound => by simp [hpass bound, hinner]⟩

/-- Bits that end before a leaf end below an internal node only. -/
theorem Tree.isInternal_of_follow_none {t : Tree} {bits : List Bool} (h : t.follow bits = none) : t.isInternal = true := by
  cases t with
  | leaf => simp [Tree.follow] at h
  | internal => rfl

/-- The loop follows bits that end inside a code, reads them all and raises its error (R141). -/
theorem decodeLoop_follow_none {t : Tree} {bits : List Bool} {s : State} {is : List Idx} (ht : s.Subtree s.cursor t is)
    (hr : s.sourceReady) (hbits : s.src.rest = bits) (hf : t.follow bits = none) {bound : Nat} (hb : bits.length < bound) :
    ∃ u, decodeLoop bound s = .stop (.raise .truncatedBody) u ∧ s.Moved s.src.bits.length [] u := by
  obtain ⟨bound, rfl⟩ := Nat.exists_eq_add_one_of_ne_zero (Nat.ne_of_gt (Nat.zero_lt_of_lt hb))
  induction bits generalizing t s is bound with
  | nil => exact ⟨_, decodeLoop_of_rest_nil hr hbits bound, s.moved_exhaust 1⟩
  | cons b bits ih =>
    rw [List.length_cons] at hb
    obtain ⟨bound, rfl⟩ := Nat.exists_eq_add_one_of_ne_zero (n := bound) (by omega)
    cases t with
    | leaf => cases hf
    | internal l r =>
      rw [Tree.follow_internal] at hf
      obtain ⟨w, js, hm, hrest, hchild, hpass⟩ := decodeLoop_descend ht hr hbits (Tree.isInternal_of_follow_none hf)
      obtain ⟨u, hu, hmu⟩ := ih hchild (hm.sourceReady hr) hrest hf bound (by omega)
      rw [hm.src] at hmu
      exact ⟨u, (hpass _).trans hu, hm.trans hmu⟩

/-- The loop decodes one symbol that is not the terminator, writes it and stands at the root again (R140, R142). -/
theorem decodeLoop_word {t : Tree} {sym : Sym} {bits more : List Bool} {s : State} {is : List Idx}
    (ht : s.Subtree s.root t is) (hc : s.cursor = s.root) (hint : t.isInternal = true) (hr : s.sourceReady)
    (hk : s.sinkReady) (hbits : s.src.rest = bits) (hf : t.follow bits = some (sym, more)) (hne : sym ≠ eosSym)
    {bound : Nat} (hb : bits.length < bound) :
    ∃ v pos bound', s.Moved pos (msbBits 8 (sym.setWidth 8)) v ∧ v.src.rest = more ∧ v.Subtree v.root t is ∧
      v.cursor = v.root ∧ more.length < bound' ∧ decodeLoop bound s = decodeLoop bound' v := by
  obtain ⟨u, pos, bound', hm, hmore, hsym, hb', hloop⟩ := decodeLoop_follow (hc ▸ ht) hint hr hbits hf hb
  obtain ⟨v, hv, hmv, hcv⟩ := writeDecoded_writes (hm.sinkReady hk) hsym
  have hst := hm.trans hmv
  have htree : v.Subtree v.root t is := by
    rw [hst.root]
    exact ht.frame fun j _ => nodeAt_congr hst.node j
  have hrest : v.src.rest = more := by
    rw [hmv.src]
    exact hmore
  exact ⟨v, _, bound', hst, hrest, htree, hcv, hb', by rw [hloop, if_neg hne, hv, Res.seq_ok]⟩

/-- The loop writes what the body decodes to until the source ends, and raises its error there (R141, R142). -/
theorem decodeLoop_runsOut {t : Tree} {bits : List Bool} {out : List (BitVec 8)} (hd : t.RunsOut bits out)
    (hint : t.isInternal = true) {s : State} {is : List Idx} (ht : s.Subtree s.root t is) (hc : s.cursor = s.root)
    (hr : s.sourceReady) (hk : s.sinkReady) (hbits : s.src.rest = bits) {bound : Nat} (hb : bits.length < bound) :
    ∃ u, decodeLoop bound s = .stop (.raise .truncatedBody) u ∧ s.Moved s.src.bits.length (bitsOfBytes out) u := by
  induction hd generalizing s is bound with
  | stop hf => exact decodeLoop_follow_none (hc ▸ ht) hr hbits hf hb
  | word hf hne _ ih =>
    obtain ⟨v, pos, bound', hm, hmore, hv, hcv, hb', hloop⟩ := decodeLoop_word ht hc hint hr hk hbits hf hne hb
    obtain ⟨u, hu, hmu⟩ := ih hv hcv (hm.sourceReady hr) (hm.sinkReady hk) hmore hb'
    rw [hm.src] at hmu
    exact ⟨u, hloop.trans hu, hm.trans hmu⟩

/-- DECBODY of a body that does not end (R141). -/
theorem decbodyBody_truncated {s : State} {t : Tree} {out : List (BitVec 8)} (hr : s.sourceReady) (hk : s.sinkReady)
    (ht : s.tree = some t) (hint : t.isInternal = true) (hd : t.RunsOut s.src.rest out) :
    ∃ u, decbodyBody s = .stop (.raise .truncatedBody) u ∧
      State.Moved { s with phase := .decbody, cursor := s.root } s.src.bits.length (bitsOfBytes out) u := by
  obtain ⟨is, hs⟩ := decbodyStart_subtree ht
  obtain ⟨u, hu, hm⟩ := decodeLoop_runsOut hd hint hs rfl hr hk rfl (rest_length_lt s)
  exact ⟨u, by rw [decbodyBody, hu, Res.seq_stop], hm⟩

/-! ## Every body ends or runs out -/

/-- A path to a leaf uses bits up, at least one from an internal node. -/
theorem Tree.length_of_follow {t : Tree} {sym : Sym} {bits more : List Bool} (h : t.follow bits = some (sym, more)) :
    more.length ≤ bits.length ∧ (t.isInternal = true → more.length < bits.length) := by
  induction t generalizing bits with
  | leaf =>
    cases h
    exact ⟨Nat.le_refl _, nofun⟩
  | internal l r ihl ihr =>
    cases bits with
    | nil => cases h
    | cons b bits =>
      have hle : more.length ≤ bits.length := by
        cases b with
        | false => exact (ihl h).1
        | true => exact (ihr h).1
      exact ⟨Nat.le_succ_of_le hle, fun _ => Nat.lt_succ_of_le hle⟩

/-- A body of finitely many bits ends at a terminator or runs out: each symbol uses a bit up (R141). -/
theorem Tree.decodes_or_runsOut {t : Tree} (hint : t.isInternal = true) (bits : List Bool) :
    (∃ out more, t.Decodes bits out more) ∨ ∃ out, t.RunsOut bits out := by
  cases hf : t.follow bits with
  | none => exact .inr ⟨[], .stop hf⟩
  | some leaf =>
    obtain ⟨sym, more⟩ := leaf
    by_cases hsym : sym = eosSym
    · exact .inl ⟨[], more, .stop (hsym ▸ hf)⟩
    · have hlt : more.length < bits.length := (Tree.length_of_follow hf).2 hint
      rcases Tree.decodes_or_runsOut hint more with ⟨out, rest, hd⟩ | ⟨out, hd⟩
      · exact .inl ⟨_, rest, .word hf hsym hd⟩
      · exact .inr ⟨_, .word hf hsym hd⟩
termination_by bits.length

/-- Settles O49: the loop's error at the end of the source is the command's, and a finite source has no third way to go. -/
theorem decbodyEndsOrRunsOut : Obligations.DecbodyEndsOrRunsOut := by
  unfold Obligations.DecbodyEndsOrRunsOut
  refine ⟨fun s tr out hi hr hk hv ht hint hd => ?_, fun tr bits hint => tr.decodes_or_runsOut hint bits⟩
  obtain ⟨u, hu, hm⟩ := decbodyBody_truncated (s := s.start noMacro) hr hk ((s.start_tree _).trans ht) hint hd
  exact ⟨_, accept_of_raise hi hv hu, rfl, rfl, hm.snk, congrArg Source.pos hm.src⟩

end Sys2Proof.Machine
end

section
/-!
PROOFS of O7, O8 and O10: the commands that the CORE does not run (spec/47_sequencer_commands.md R153, R154, spec/60_exceptions.md
R177), by one lemma for each case of the acceptance.
-/
namespace Sys2Proof.Machine

/-! ## Ignored commands -/

/-- While busy and in `ERROR` an illegal word is ignored (R153 cases (a) and (c)). -/
theorem acceptIllegal_of_ignored {s : State} (h : s.busy = true ∨ s.phase = .error) : acceptIllegal s = .next s := by
  rcases acceptIllegal_cases s with ⟨-, e⟩ | ⟨hb, hp, -⟩
  · exact e
  · exact absurd h (by simp [hb, hp])

/-- Every command but CLEAR is ignored while another runs and in `ERROR` (R153 cases (a) and (c), R177). -/
theorem exec_of_ignored {i : Instr} {s : State} (hi : isCommand i = true) (hclear : i ≠ .clear)
    (h : s.busy = true ∨ s.phase = .error) : exec i s = .next s := by
  cases i with
  | analyze | build | gencodes | wrmagic | wrhdr | encbody | close | rdmagic | rdhdr | decbody | compress | decompress =>
    exact accept_of_ignored h
  | clear => exact absurd rfl hclear
  | illegal0 | illegalE | illegalF | illegalDefault v => exact acceptIllegal_of_ignored h
  | hdrNode | hdrLeaf sym | fileMagic => cases hi

/-- CLEAR is ignored while a command runs (R150, R153 case (a)). -/
theorem exec_clear_of_busy {s : State} (h : s.busy = true) : exec .clear s = .next s := if_pos h

/-- Settles O7: a running command is the first thing that the acceptance looks at. -/
theorem busyCoreIgnoresCommands : Obligations.BusyCoreIgnoresCommands := by
  unfold Obligations.BusyCoreIgnoresCommands
  intro i s hi hb
  by_cases hclear : i = .clear
  · subst hclear
    exact exec_clear_of_busy hb
  · exact exec_of_ignored hi hclear (.inl hb)

/-! ## Command words in `ERROR` -/

/-- What is encoded as a command word is a command (R62). -/
theorem isCommand_of_encode {magic : BitVec 32} {i : Instr} {v : Reg} (h : encode magic i = .cmd v) :
    isCommand i = true := by
  cases i with
  | hdrNode | hdrLeaf sym | fileMagic => cases h
  | _ => rfl

theorem isCommand_decodeCmd (v : Reg) : isCommand (decodeCmd v) = true :=
  isCommand_of_encode (encode_decodeCmd 0#32 v).2

/-- The word 0xD is the only one of CLEAR (R62, R63). -/
theorem eq_of_decodeCmd_clear {v : Reg} (h : decodeCmd v = .clear) : v = 0xD#64 := by
  have hword := (encode_decodeCmd 0#32 v).2
  rw [h] at hword
  exact (Code.cmd.inj hword).symm

/-- Settles O8: only CLEAR is accepted in `ERROR`, and reads and `SEL` writes do not look at the phase. -/
theorem errorPhaseIgnoresAllButClear : Obligations.ErrorPhaseIgnoresAllButClear := by
  unfold Obligations.ErrorPhaseIgnoresAllButClear
  refine fun s rest hp => ⟨fun v hv h => ?_, fun a v hv h => step_of_read_value h hv, fun v h => ?_⟩
  · have hclear : decodeCmd v ≠ .clear := fun e => hv (eq_of_decodeCmd_clear e)
    exact (step_of_command h).trans (exec_of_ignored (isCommand_decodeCmd v) hclear (.inr hp))
  · exact (registerWritesReachOnlyTheSelector s selAddr v rest h).1 rfl

/-! ## Commands whose prerequisite does not hold -/

/-- A command without its prerequisite changes nothing but the sequencer's registers (R153 case (e), R174). -/
theorem accept_of_missing_prerequisite {pre : State → Bool} {m : BitVec 2} {body : State → Res Unit} {s : State}
    (hi : s.isIdle) (hp : pre s = false) :
    accept pre m body s = .next { s with errCode := some .sequence, phase := .error, done := false,
                                         freqValid := false, treeValid := false, codesValid := false } := by
  rw [accept_of_not_ready hi hp, raiseErr_of_not_busy _ hi.1]

/-- GENCODES requires a valid tree that BUILD made (R105). -/
theorem gencodesReady_eq_false {s : State} (h : s.treeValid = false ∨ s.treeOrigin = .parsed) :
    gencodesReady s = false := by
  rcases h with h | h
  · simp [gencodesReady, h]
  · simp [gencodesReady, h]

/-- Settles O10: each of the five commands is accepted with the prerequisite that is stated. -/
theorem missingPrerequisiteRaisesSequence : Obligations.MissingPrerequisiteRaisesSequence := by
  unfold Obligations.MissingPrerequisiteRaisesSequence
  intro s i hi h
  rcases h with ⟨rfl, h⟩ | ⟨rfl, h⟩ | ⟨rfl, h⟩ | ⟨rfl, h⟩ | ⟨rfl, h⟩
  · exact accept_of_missing_prerequisite hi h
  · exact accept_of_missing_prerequisite hi (gencodesReady_eq_false h)
  · exact accept_of_missing_prerequisite hi h
  · exact accept_of_missing_prerequisite hi h
  · exact accept_of_missing_prerequisite hi h

end Sys2Proof.Machine
end

section
/-!
PROOFS of O51 (WrmagicWritesTheMagic) and O52 (RdmagicAcceptsOnlyTheMagic): the magic written in one transaction, and the three ways
in which its reading ends (spec/47_sequencer_commands.md R147, R148).
-/
namespace Sys2Proof.Machine

/-- Settles O51: the body of WRMAGIC is one write, and the end of the command sets `done`. -/
theorem wrmagicWritesTheMagic : Obligations.WrmagicWritesTheMagic := by
  unfold Obligations.WrmagicWritesTheMagic
  intro s hi hk
  have hexec : exec .wrmagic s = .next (State.append 32 s.cfg.magic { s.start noMacro with phase := .wrmagic }).complete :=
    accept_of_ok hi rfl (wrmagicBody_completes (s := s.start noMacro) hk)
  refine ⟨_, hexec, ?_⟩
  conv_rhs => rw [← State.eq_of_isIdle hi]
  rfl

/-- RDMAGIC reads another value than the magic and raises its error (R148). -/
theorem rdmagicBody_rejects {s : State} {v : BitVec 32} {more : List Bool} (hr : s.sourceReady) (hv : v ≠ s.cfg.magic)
    (h : s.src.rest = msbBits 32 v ++ more) :
    rdmagicBody s = .stop (.raise .badMagic) (State.advance 32 v { s with phase := .rdmagic }) := by
  have hread := srcRead_of_field (s := { s with phase := .rdmagic }) hr (by decide) h
  rw [BitVec.setWidth_eq] at hread
  rw [rdmagicBody, readMagic, hread, Res.bind_ok]
  exact if_neg hv

/-- RDMAGIC raises its error on a source that ends before 32 bits (R148). -/
theorem rdmagicBody_of_short {s : State} (hr : s.sourceReady) (h : s.src.rest.length < 32) :
    rdmagicBody s = .stop (.raise .badMagic) (State.exhaust 32 { s with phase := .rdmagic }) := by
  rw [rdmagicBody, readMagic, srcRead_of_short (s := { s with phase := .rdmagic }) hr h, Res.bind_ok]

/-- Settles O52: the next 32 bits are the magic, are another value, or are not there. -/
theorem rdmagicAcceptsOnlyTheMagic : Obligations.RdmagicAcceptsOnlyTheMagic := by
  unfold Obligations.RdmagicAcceptsOnlyTheMagic
  refine fun s hi hr => ⟨fun more h => ?_, fun v more hv h => ?_, fun h => ?_⟩
  · have hbody := rdmagicBody_completes (s := s.start noMacro) hr h
    exact ⟨_, accept_of_ok hi rfl hbody, ⟨rfl, rfl⟩, rfl, rfl, rfl, rfl, rfl, rfl, rfl⟩
  · have hbody := rdmagicBody_rejects (s := s.start noMacro) hr hv h
    exact ⟨_, accept_of_raise hi rfl hbody, rfl, rfl, rfl, rfl⟩
  · have hbody := rdmagicBody_of_short (s := s.start noMacro) hr h
    exact ⟨_, accept_of_raise hi rfl hbody, rfl, rfl, rfl, rfl⟩

end Sys2Proof.Machine
end

section
/-!
PROOF of O25 (StalledCommandStaysBusyUntilReset). A command whose first transaction is not answered stops at the start of its body
(`State.StalledIn`). A step runs the next token of a running phase, whose first transaction is the command's own, so the CORE
waits (`step_of_stalled_source`, `step_of_stalled_sink`; spec/70_reset_and_hazards.md R201).
-/
namespace Sys2Proof.Machine

/-! ## Transactions that are not answered -/

section
variable {s : State}

theorem srcRead_of_stalled (n : Nat) (h : s.src.answers = some 0) : srcRead n s = .stop .stall s := by
  simp [srcRead, answering, h]

theorem sinkWrite_of_stalled (n : Nat) (v : BitVec 32) (hopen : s.snk.closed = false) (h : s.snk.answers = some 0) :
    sinkWrite n v s = .stop .stall s := by
  simp [sinkWrite, answering, hopen, h]

theorem sinkClose_of_stalled (hopen : s.snk.closed = false) (h : s.snk.answers = some 0) :
    sinkClose s = .stop .stall s := by
  simp [sinkClose, answering, hopen, h]

/-- The token of an internal node stalls at its one write (R115). -/
theorem writeNodeToken_of_stalled (hopen : s.snk.closed = false) (h : s.snk.answers = some 0) {e : StkEntry}
    {stk : List StkEntry} (hs : s.work.stk = e :: stk) : writeNodeToken s = .stop .stall s := by
  simp only [writeNodeToken, hs, sinkWrite_of_stalled 1 0#32 hopen h, Res.seq_stop]

/-- The token of a leaf stalls at its flag bit (R115). -/
theorem writeLeafToken_of_stalled (hopen : s.snk.closed = false) (h : s.snk.answers = some 0) {e : StkEntry}
    {stk : List StkEntry} (hs : s.work.stk = e :: stk) (sym : Sym) : writeLeafToken sym s = .stop .stall s := by
  simp only [writeLeafToken, hs, sinkWrite_of_stalled 1 1#32 hopen h, Res.seq_stop]

end

/-! ## The bodies stall at their first transaction -/

section
variable {s : State}

theorem analyzeBody_of_stalled (h : s.src.answers = some 0) : analyzeBody s = .stop .stall (analyzeStart s) := by
  rw [analyzeBody, analyzeLoop, srcRead_of_stalled 8 (s := analyzeStart s) h]
  rfl

theorem rdmagicBody_of_stalled (h : s.src.answers = some 0) :
    rdmagicBody s = .stop .stall { s with phase := .rdmagic } := by
  rw [rdmagicBody, readMagic, srcRead_of_stalled 32 (s := { s with phase := .rdmagic }) h]
  rfl

theorem rdhdrBody_of_stalled (h : s.src.answers = some 0) : rdhdrBody s = .stop .stall (rdhdrStart s) := by
  rw [rdhdrBody, readTokens, readToken, srcRead_of_stalled 1 (s := rdhdrStart s) h]
  rfl

theorem encbodyBody_of_stalled (h : s.src.answers = some 0) :
    encbodyBody s = .stop .stall { s with phase := .encbody } := by
  rw [encbodyBody, encodeLoop, srcRead_of_stalled 8 (s := { s with phase := .encbody }) h]
  rfl

theorem decbodyBody_of_stalled (h : s.src.answers = some 0) :
    decbodyBody s = .stop .stall { s with phase := .decbody, cursor := s.root } := by
  rw [decbodyBody, decodeLoop, srcRead_of_stalled 1 (s := { s with phase := .decbody, cursor := s.root }) h]
  rfl

theorem compressBody_of_stalled (h : s.src.answers = some 0) : compressBody s = .stop .stall (analyzeStart s) := by
  rw [compressBody, analyzeBody_of_stalled h]
  rfl

theorem decompressBody_of_stalled (h : s.src.answers = some 0) :
    decompressBody s = .stop .stall { s with phase := .rdmagic } := by
  rw [decompressBody, rdmagicBody_of_stalled h, Res.seq_stop]

theorem wrmagicBody_of_stalled (hopen : s.snk.closed = false) (h : s.snk.answers = some 0) :
    wrmagicBody s = .stop .stall { s with phase := .wrmagic } :=
  sinkWrite_of_stalled (s := { s with phase := .wrmagic }) 32 s.cfg.magic hopen h

theorem closeBody_of_stalled (hopen : s.snk.closed = false) (h : s.snk.answers = some 0) :
    closeBody s = .stop .stall { s with phase := .close } :=
  sinkClose_of_stalled (s := { s with phase := .close }) hopen h

theorem wrhdrBody_of_stalled (hopen : s.snk.closed = false) (h : s.snk.answers = some 0) :
    wrhdrBody s = .stop .stall (wrhdrStart s) := by
  change (writeToken (s.nodeAt s.root) (wrhdrStart s)).seq (writeTokens 1023) = _
  unfold writeToken
  split
  · rw [writeLeafToken_of_stalled (s := wrhdrStart s) hopen h rfl, Res.seq_stop]
  · rw [writeNodeToken_of_stalled (s := wrhdrStart s) hopen h rfl, Res.seq_stop]

end

/-! ## A stalled CORE waits -/

theorem eq_fileMagic_of_decodeMagic {magic : BitVec 32} {bits more : List Bool} {i : Instr}
    (h : decodeMagic magic bits = .ok (i, more)) : i = .fileMagic := by
  unfold decodeMagic at h
  split at h
  · split at h <;> cases h
    rfl
  · cases h

theorem token_cases_of_decodeToken {bits more : List Bool} {i : Instr} (h : decodeToken bits = .ok (i, more)) :
    i = .hdrNode ∨ ∃ sym, i = .hdrLeaf sym := by
  unfold decodeToken at h
  split at h
  · cases h
  · cases h
    exact .inl rfl
  · split at h <;> cases h
    exact .inr ⟨_, rfl⟩

theorem tokenOf_cases (n : Node) : tokenOf n = .hdrNode ∨ ∃ sym, tokenOf n = .hdrLeaf sym := by
  unfold tokenOf
  split
  · exact .inr ⟨_, rfl⟩
  · exact .inl rfl

section
variable {t : State} (hp : t.pending = [])
include hp

/-- In the phases without tokens a running CORE waits (R201). -/
theorem step_of_tokenless (h : t.phase ≠ .rdmagic ∧ t.phase ≠ .rdhdr ∧ t.phase ≠ .wrmagic ∧ t.phase ≠ .wrhdr) :
    step t = .next t := by
  obtain ⟨hrdmagic, hrdhdr, hwrmagic, hwrhdr⟩ := h
  have hfetch : fetchToken t = .done (.next t) := by
    unfold fetchToken
    split
    · exact absurd ‹_› hrdmagic
    · exact absurd ‹_› hrdhdr
    · exact absurd ‹_› hwrmagic
    · exact absurd ‹_› hwrhdr
    all_goals rfl
  simp only [step, fetch, hp, hfetch, ite_self]

/-- Inside RDMAGIC the check of the magic comes next, whether or not the magic stands on the source (R148). -/
theorem step_of_stalled_rdmagic (hb : t.busy = true) (hph : t.phase = .rdmagic) (h : t.src.answers = some 0) :
    step t = .next t := by
  cases hd : decodeMagic t.cfg.magic t.src.rest with
  | ok token =>
    obtain ⟨i, more⟩ := token
    obtain rfl := eq_fileMagic_of_decodeMagic hd
    obtain ⟨-, -, hnext, -, -⟩ := stepRunsTheNextTokenOrWaits t hp
    rw [hnext hb hph _ _ hd, exec_fileMagic_of_rdmagic hph, readMagic, srcRead_of_stalled 32 h]
    rfl
  | error e =>
    simp only [step, fetch, hp, hb, if_true, fetchToken, hph, hd, readMagic, srcRead_of_stalled 32 h]
    rfl

/-- Inside RDHDR a flag bit is read next, whatever stands on the source (R123). -/
theorem step_of_stalled_rdhdr (hb : t.busy = true) (hph : t.phase = .rdhdr) (h : t.src.answers = some 0) :
    step t = .next t := by
  cases hd : decodeToken t.src.rest with
  | ok token =>
    obtain ⟨i, more⟩ := token
    obtain ⟨-, hnext, -, -, -⟩ := stepRunsTheNextTokenOrWaits t hp
    rw [hnext hb hph _ _ hd]
    obtain rfl | ⟨sym, rfl⟩ := token_cases_of_decodeToken hd
    · rw [exec_hdrNode_of_rdhdr hph, takeNode, srcRead_of_stalled 1 h]
      rfl
    · rw [exec_hdrLeaf_of_rdhdr sym hph, takeLeaf, srcRead_of_stalled 1 h]
      rfl
  | error e =>
    simp only [step, fetch, hp, hb, if_true, fetchToken, hph, hd, readToken, srcRead_of_stalled 1 h]
    rfl

/-- Inside WRHDR the token on top of the stack is written next (R115). -/
theorem step_of_stalled_wrhdr (hb : t.busy = true) (hph : t.phase = .wrhdr) (hopen : t.snk.closed = false)
    (h : t.snk.answers = some 0) : step t = .next t := by
  cases hs : t.work.stk with
  | nil => simp only [step, fetch, hp, hb, if_true, fetchToken, hph, hs]
  | cons e stk =>
    obtain ⟨-, -, -, hnext, -⟩ := stepRunsTheNextTokenOrWaits t hp
    rw [hnext hb hph _ _ hs]
    obtain htoken | ⟨sym, htoken⟩ := tokenOf_cases (t.nodeAt e.idx)
    · rw [htoken, exec_hdrNode_of_wrhdr hph, writeNodeToken_of_stalled hopen h hs]
      rfl
    · rw [htoken, exec_hdrLeaf_of_wrhdr sym hph, writeLeafToken_of_stalled hopen h hs]
      rfl

/-- A CORE that runs a reading command on a source without answers waits (R201). -/
theorem step_of_stalled_source (hb : t.busy = true) (h : t.src.answers = some 0)
    (hph : t.phase ≠ .wrmagic ∧ t.phase ≠ .wrhdr) : step t = .next t := by
  by_cases hrdmagic : t.phase = .rdmagic
  · exact step_of_stalled_rdmagic hp hb hrdmagic h
  by_cases hrdhdr : t.phase = .rdhdr
  · exact step_of_stalled_rdhdr hp hb hrdhdr h
  exact step_of_tokenless hp ⟨hrdmagic, hrdhdr, hph.1, hph.2⟩

/-- A CORE that runs a writing command on an open sink without answers waits (R201). -/
theorem step_of_stalled_sink (hb : t.busy = true) (hopen : t.snk.closed = false) (h : t.snk.answers = some 0)
    (hph : t.phase ≠ .rdmagic ∧ t.phase ≠ .rdhdr) : step t = .next t := by
  by_cases hwrhdr : t.phase = .wrhdr
  · exact step_of_stalled_wrhdr hp hb hwrhdr hopen h
  by_cases hwrmagic : t.phase = .wrmagic
  · obtain ⟨-, -, -, -, hnext⟩ := stepRunsTheNextTokenOrWaits t hp
    rw [hnext hb hwrmagic, exec_fileMagic_of_wrmagic hwrmagic, writeMagic, sinkWrite_of_stalled 32 _ hopen h]
    rfl
  exact step_of_tokenless hp ⟨hph.1, hph.2, hwrmagic, hwrhdr⟩

end

/-! ## The command that stalls -/

/-- `t` stands in phase `p` of a command that has done nothing to the streams of `s`, with no host action to come. -/
structure State.StalledIn (p : Phase) (s t : State) : Prop where
  busy : t.busy = true
  done : t.done = false
  phase : t.phase = p
  src : t.src = s.src
  snk : t.snk = s.snk
  pending : t.pending = []

/-- Reset ends a stalled command; the source keeps its content, the sink what it held (R192, U5). -/
theorem State.StalledIn.reset {p : Phase} {s t : State} (h : s.StalledIn p t) :
    ∃ u, step { t with pending := [.reset] } = .next u ∧ u.busy = false ∧ u.phase = .idle ∧ u.src.bits = s.src.bits ∧
      ∃ more, u.snk.bits = s.snk.bits ++ more := by
  have hkept := abandon_streams { t with pending := [] }
  obtain ⟨more, hmore⟩ := hkept.appended
  have hsnk : t.snk.bits = s.snk.bits := by rw [h.snk]
  exact ⟨_, step_of_reset rfl, rfl, rfl, hkept.source.trans (congrArg Source.bits h.src), more, hsnk ▸ hmore.symm⟩

/-- An accepted command whose body stalls stays there (R201). -/
theorem accept_of_stall {pre : State → Bool} {m : BitVec 2} {body : State → Res Unit} {s u : State} (hi : s.isIdle)
    (hp : pre s = true) (h : body (s.start m) = .stop .stall u) : accept pre m body s = .next u := by
  rw [accept_of_ready hi hp, h, Res.seq_stop, settle_stall]

/-- A command that reads first, its prerequisite fulfilled, stalls in its phase on a source without answers (R201). -/
theorem exec_of_stalled_source {i : Instr} {p : Phase} {s : State} (hi : s.isIdle) (hp : s.pending = [])
    (h : s.src.answers = some 0)
    (hcase : (i = .analyze ∧ p = .analyze ∨ i = .rdmagic ∧ p = .rdmagic ∨ i = .rdhdr ∧ p = .rdhdr ∨
        i = .compress ∧ p = .analyze ∨ i = .decompress ∧ p = .rdmagic) ∨
      (i = .encbody ∧ p = .encbody ∧ s.codesValid = true ∨ i = .decbody ∧ p = .decbody ∧ s.treeValid = true)) :
    ∃ t, exec i s = .next t ∧ s.StalledIn p t ∧ p ≠ .wrmagic ∧ p ≠ .wrhdr := by
  have hstart (m : BitVec 2) : (s.start m).src.answers = some 0 := h
  rcases hcase with (⟨rfl, rfl⟩ | ⟨rfl, rfl⟩ | ⟨rfl, rfl⟩ | ⟨rfl, rfl⟩ | ⟨rfl, rfl⟩) | (⟨rfl, rfl, hv⟩ | ⟨rfl, rfl, hv⟩)
  · exact ⟨_, accept_of_stall hi rfl (analyzeBody_of_stalled (hstart _)), ⟨rfl, rfl, rfl, rfl, rfl, hp⟩, nofun, nofun⟩
  · exact ⟨_, accept_of_stall hi rfl (rdmagicBody_of_stalled (hstart _)), ⟨rfl, rfl, rfl, rfl, rfl, hp⟩, nofun, nofun⟩
  · exact ⟨_, accept_of_stall hi rfl (rdhdrBody_of_stalled (hstart _)), ⟨rfl, rfl, rfl, rfl, rfl, hp⟩, nofun, nofun⟩
  · exact ⟨_, accept_of_stall hi rfl (compressBody_of_stalled (hstart _)), ⟨rfl, rfl, rfl, rfl, rfl, hp⟩, nofun, nofun⟩
  · exact ⟨_, accept_of_stall hi rfl (decompressBody_of_stalled (hstart _)), ⟨rfl, rfl, rfl, rfl, rfl, hp⟩, nofun, nofun⟩
  · exact ⟨_, accept_of_stall hi hv (encbodyBody_of_stalled (hstart _)), ⟨rfl, rfl, rfl, rfl, rfl, hp⟩, nofun, nofun⟩
  · exact ⟨_, accept_of_stall hi hv (decbodyBody_of_stalled (hstart _)), ⟨rfl, rfl, rfl, rfl, rfl, hp⟩, nofun, nofun⟩

/-- A command that writes or closes first, its prerequisite fulfilled, stalls in its phase on an open sink without answers
(R201). -/
theorem exec_of_stalled_sink {i : Instr} {p : Phase} {s : State} (hi : s.isIdle) (hp : s.pending = [])
    (hopen : s.snk.closed = false) (h : s.snk.answers = some 0)
    (hcase : i = .wrmagic ∧ p = .wrmagic ∨ i = .close ∧ p = .close ∨ i = .wrhdr ∧ p = .wrhdr ∧ s.treeValid = true) :
    ∃ t, exec i s = .next t ∧ s.StalledIn p t ∧ p ≠ .rdmagic ∧ p ≠ .rdhdr := by
  have hstart : (s.start noMacro).snk.answers = some 0 := h
  rcases hcase with ⟨rfl, rfl⟩ | ⟨rfl, rfl⟩ | ⟨rfl, rfl, hv⟩
  · exact ⟨_, accept_of_stall hi rfl (wrmagicBody_of_stalled hopen hstart), ⟨rfl, rfl, rfl, rfl, rfl, hp⟩, nofun, nofun⟩
  · exact ⟨_, accept_of_stall hi rfl (closeBody_of_stalled hopen hstart), ⟨rfl, rfl, rfl, rfl, rfl, hp⟩, nofun, nofun⟩
  · exact ⟨_, accept_of_stall hi hv (wrhdrBody_of_stalled hopen hstart), ⟨rfl, rfl, rfl, rfl, rfl, hp⟩, nofun, nofun⟩

/-- Settles O25: the command stops at its first transaction, a step tries that transaction again, and a reset ends it. -/
theorem stalledCommandStaysBusyUntilReset : Obligations.StalledCommandStaysBusyUntilReset := by
  unfold Obligations.StalledCommandStaysBusyUntilReset
  intro i p s hi hp hcase
  have hstalls : ∃ t, exec i s = .next t ∧ s.StalledIn p t ∧ step t = .next t := by
    rcases hcase with ⟨ha, hcase⟩ | ⟨ha, hcase⟩ | ⟨hopen, ha, hcase⟩
    · obtain ⟨t, hexec, ht, hph⟩ := exec_of_stalled_source hi hp ha (.inl hcase)
      exact ⟨t, hexec, ht, step_of_stalled_source ht.pending ht.busy (ht.src ▸ ha) (ht.phase ▸ hph)⟩
    · obtain ⟨t, hexec, ht, hph⟩ := exec_of_stalled_source hi hp ha (.inr hcase)
      exact ⟨t, hexec, ht, step_of_stalled_source ht.pending ht.busy (ht.src ▸ ha) (ht.phase ▸ hph)⟩
    · obtain ⟨t, hexec, ht, hph⟩ := exec_of_stalled_sink hi hp hopen ha hcase
      exact ⟨t, hexec, ht, step_of_stalled_sink ht.pending ht.busy (ht.snk ▸ hopen) (ht.snk ▸ ha) (ht.phase ▸ hph)⟩
  obtain ⟨t, hexec, ht, hstep⟩ := hstalls
  exact ⟨t, hexec, ht.busy, ht.done, ht.phase, ht.src, ht.snk, hstep, ht.reset⟩

end Sys2Proof.Machine
end

section
/-!
PROOFS of O11 (ErrorEntryClearsTheFlagsAndLeavesTheSinkOpen) and O12 (CommandsRaiseOnlyTheirKinds).

Error entry is the end of a command, `raiseErr`, so up to it a command enters no error (`State.Unfailed`), and up to the close that
may end it what the sink gains is what the model records (`State.Recorded`). `Res.Records ks s r` is the judgement of a part of a
command up to a close, `Res.Reports ks s r` that of a body, with the kinds `ks` that it may raise; `State.Reports` is what an
instruction does (spec/60_exceptions.md R171, R176).
-/
namespace Sys2Proof.Machine

/-! ## The judgements -/

/-- From `s` to `t` no error is entered, and the configuration stays. -/
structure State.Unfailed (s t : State) : Prop where
  cfg : t.cfg = s.cfg
  errCode : t.errCode = s.errCode
  phase : s.phase ≠ .error → t.phase ≠ .error

/-- From `s` to `t` the sink gains the bits of the writes that the model records, and is not closed. -/
structure State.Gained (s t : State) : Prop where
  closed : t.snk.closed = s.snk.closed
  record : ∃ txs : List Tx,
    t.trace = s.trace ++ txs ∧ t.snk.bits = s.snk.bits ++ txs.flatMap Tx.written ∧ Tx.sinkClose ∉ txs

/-- From `s` to `t` a command enters no error and comes to no close. -/
structure State.Recorded (s t : State) : Prop extends s.Unfailed t, s.Gained t

section
variable {s t u : State}

theorem State.Unfailed.trans (h : s.Unfailed t) (h' : t.Unfailed u) : s.Unfailed u where
  cfg := h'.cfg.trans h.cfg
  errCode := h'.errCode.trans h.errCode
  phase hs := h'.phase (h.phase hs)

theorem State.Gained.trans (h : s.Gained t) (h' : t.Gained u) : s.Gained u where
  closed := h'.closed.trans h.closed
  record := by
    obtain ⟨txs, htrace, hbits, hclose⟩ := h.record
    obtain ⟨txs', htrace', hbits', hclose'⟩ := h'.record
    refine ⟨txs ++ txs', by rw [htrace', htrace, List.append_assoc], ?_, by simp [hclose, hclose']⟩
    rw [hbits', hbits, List.append_assoc, List.flatMap_append]

theorem State.Recorded.trans (h : s.Recorded t) (h' : t.Recorded u) : s.Recorded u :=
  ⟨h.toUnfailed.trans h'.toUnfailed, h.toGained.trans h'.toGained⟩

theorem State.Gained.of_eq (hsnk : t.snk = s.snk) (htrace : t.trace = s.trace) : s.Gained t :=
  ⟨congrArg Sink.closed hsnk, [], by simp [htrace], by simp [hsnk], nofun⟩

/-- An update that leaves the sink and the record alone. -/
theorem State.Recorded.of_eq (hcfg : t.cfg = s.cfg) (herr : t.errCode = s.errCode)
    (hphase : s.phase ≠ .error → t.phase ≠ .error) (hsnk : t.snk = s.snk) (htrace : t.trace = s.trace) : s.Recorded t :=
  ⟨⟨hcfg, herr, hphase⟩, .of_eq hsnk htrace⟩

/-- What keeps the sequencer's registers enters no error. -/
theorem State.Unfailed.of_control (h : t.control = s.control) : s.Unfailed t where
  cfg := (congrArg State.cfg h :)
  errCode := (congrArg State.errCode h :)
  phase hs := by rwa [phase_of_control h]

end

theorem Res.Ends.recorded {α : Type} {s : State} {r : Res α} (h : r.Ends s.Unfailed) (h' : r.Ends s.Gained) :
    r.Ends s.Recorded := by
  cases r with
  | ok _ _ => exact ⟨h, h'⟩
  | stop _ _ => exact ⟨h, h'⟩

/-- The part `r`, begun in `s`, comes to no close and raises only the kinds `ks`. -/
structure Res.Records {α : Type} (ks : List ErrKind) (s : State) (r : Res α) : Prop where
  ends : r.Ends s.Recorded
  kinds : s.cfg.wf = true → ∀ k t, r = .stop (.raise k) t → k ∈ ks

/-- The body `r`, begun in `s`, raises only the kinds `ks`, and where it raises one it has not closed the sink. -/
structure Res.Reports (ks : List ErrKind) (s : State) (r : Res Unit) : Prop where
  ends : r.Ends s.Unfailed
  raises : ∀ k t, r = .stop (.raise k) t → s.Recorded t ∧ (s.cfg.wf = true → k ∈ ks)

section
variable {α : Type} {ks ks' : List ErrKind} {s : State}

theorem Res.Records.ok (a : α) {t : State} (h : s.Recorded t) : (Res.ok a t).Records ks s where
  ends := h
  kinds _ k u e := by cases e

/-- A part goes on after an update that leaves the sink and the record alone. -/
theorem Res.Records.update (a : α) {t : State} (hcfg : t.cfg = s.cfg) (herr : t.errCode = s.errCode)
    (hphase : t.phase = s.phase) (hsnk : t.snk = s.snk) (htrace : t.trace = s.trace) : (Res.ok a t).Records ks s :=
  .ok a (.of_eq hcfg herr (fun h => hphase ▸ h) hsnk htrace)

theorem Res.Records.raise {k : ErrKind} (h : k ∈ ks) : (Res.stop (.raise k) s : Res α).Records ks s where
  ends := .of_eq rfl rfl id rfl rfl
  kinds _ k' t e := by
    cases e
    exact h

theorem Res.Records.stop {q : Stop} (h : ∀ k, q ≠ .raise k) : (Res.stop q s : Res α).Records ks s where
  ends := .of_eq rfl rfl id rfl rfl
  kinds _ k t e := by
    cases e
    exact absurd rfl (h k)

theorem Res.Records.after {r : Res α} {t : State} (ht : s.Recorded t) (h : r.Records ks t) : r.Records ks s where
  ends := h.ends.mono fun _ hu => ht.trans hu
  kinds hcfg := h.kinds (ht.cfg ▸ hcfg)

theorem Res.Records.mono {r : Res α} (h : r.Records ks s) (hks : ks ⊆ ks') : r.Records ks' s :=
  ⟨h.ends, fun hcfg k t e => hks (h.kinds hcfg k t e)⟩

theorem Res.Records.bind {β : Type} {r : Res β} {f : β → State → Res α} (h : r.Records ks s)
    (hf : ∀ b t, (f b t).Records ks t) : (r.bind f).Records ks s := by
  cases r with
  | ok b t => exact .after h.ends (hf b t)
  | stop q t =>
    refine ⟨h.ends, fun hcfg k u e => ?_⟩
    cases e
    exact h.kinds hcfg k t rfl

theorem Res.Records.seq {r : Res Unit} {f : State → Res Unit} (h : r.Records ks s) (hf : ∀ t, (f t).Records ks t) :
    (r.seq f).Records ks s := h.bind fun _ => hf

theorem Res.Records.ite {p : Prop} [Decidable p] {a b : Res α} (ha : p → a.Records ks s) (hb : ¬p → b.Records ks s) :
    (if p then a else b).Records ks s := by
  split
  · exact ha ‹_›
  · exact hb ‹_›

/-- A part that comes to no close is a body of its own. -/
theorem Res.Records.reports {r : Res Unit} (h : r.Records ks s) : r.Reports ks s where
  ends := h.ends.mono fun _ ht => ht.toUnfailed
  raises k t e := by
    have hends := h.ends
    subst e
    exact ⟨hends, fun hcfg => h.kinds hcfg k t rfl⟩

/-- A body after a part that comes to no close. -/
theorem Res.Records.seq_reports {r : Res Unit} {f : State → Res Unit} (h : r.Records ks s)
    (hf : ∀ t, (f t).Reports ks t) : (r.seq f).Reports ks s := by
  cases r with
  | ok _ t =>
    have ht : s.Recorded t := h.ends
    refine ⟨(hf t).ends.mono fun _ hu => ht.toUnfailed.trans hu, fun k u e => ?_⟩
    obtain ⟨hu, hk⟩ := (hf t).raises k u e
    exact ⟨ht.trans hu, fun hcfg => hk (ht.cfg ▸ hcfg)⟩
  | stop q t => exact h.reports

end

/-! ## The primitives -/

section
variable {ks : List ErrKind}

theorem srcRead_records (n : Nat) (s : State) : (srcRead n s).Records ks s := by
  have hread (v : Option (BitVec 32)) {t : State} (hcfg : t.cfg = s.cfg) (herr : t.errCode = s.errCode)
      (hphase : t.phase = s.phase) (hsnk : t.snk = s.snk) (htrace : t.trace = s.trace ++ [.srcRead n v]) : s.Recorded t :=
    ⟨⟨hcfg, herr, fun h => hphase ▸ h⟩, congrArg Sink.closed hsnk, _, htrace, by simp [hsnk, Tx.written], by simp⟩
  rcases srcRead_cases n s with ⟨-, e⟩ | ⟨v, -, -, e⟩ | ⟨-, -, e⟩ <;> rw [e]
  · exact .stop nofun
  · exact .ok _ (hread _ rfl rfl rfl rfl rfl)
  · exact .ok _ (hread _ rfl rfl rfl rfl rfl)

theorem srcReset_records (s : State) : (srcReset s).Records ks s := by
  rcases srcReset_cases s with ⟨-, e⟩ | ⟨-, e⟩ <;> rw [e]
  · exact .stop nofun
  · exact .ok _ ⟨⟨rfl, rfl, id⟩, rfl, _, rfl, by simp [Tx.written], by simp⟩

theorem sinkWrite_records (n : Nat) (v : BitVec 32) (s : State) : (sinkWrite n v s).Records ks s := by
  rcases sinkWrite_cases n v s with ⟨-, e⟩ | ⟨-, -, e⟩ | ⟨-, -, e⟩ <;> rw [e]
  · exact .stop nofun
  · exact .stop nofun
  · exact .ok _ ⟨⟨rfl, rfl, id⟩, rfl, _, rfl, by simp [Tx.written], by simp⟩

theorem alloc_records (h : .treeOverflow ∈ ks) (n : Node) (s : State) : (alloc n s).Records ks s := by
  rcases alloc_cases n s with ⟨-, e⟩ | ⟨-, e⟩ <;> rw [e]
  · exact .raise h
  · exact .update _ rfl rfl rfl rfl rfl

end

/-! ## The bodies that come to no close -/

theorem countWord_records (x : BitVec 8) (s : State) : (countWord x s).Records [.countOverflow] s :=
  .ite (fun _ => .raise (by simp)) fun _ => .update _ rfl rfl rfl rfl rfl

theorem analyzeLoop_records (bound : Nat) (s : State) : (analyzeLoop bound s).Records [.countOverflow] s := by
  induction bound generalizing s with
  | zero => exact .stop nofun
  | succ bound ih =>
    refine (srcRead_records 8 s).bind fun v t => ?_
    cases v with
    | none => exact .update _ rfl rfl rfl rfl rfl
    | some w => exact (countWord_records _ t).seq ih

theorem analyzeBody_records (s : State) : (analyzeBody s).Records [.countOverflow] s :=
  .after (t := analyzeStart s) (.of_eq rfl rfl (fun _ => nofun) rfl rfl) <|
    ((analyzeLoop_records _ _).seq srcReset_records).seq fun _ => .update _ rfl rfl rfl rfl rfl

/-- What runs inside a phase enters no error. -/
theorem IsPart.unfailed {α : Type} {c : State → Res α} (h : IsPart State.control c) (s : State) : (c s).Ends s.Unfailed :=
  (h id id s).kept.mono fun _ ⟨ht, _⟩ => .of_control ht

/-- BUILD touches no stream, and in a well-configured CORE it completes (R5, R100). -/
theorem buildBody_records (s : State) : (buildBody s).Records [] s where
  ends := by
    have hunfailed : (buildBody s).Ends s.Unfailed :=
      ((((loadLeaves_part 0 s.counts).seq buildTree_part).unfailed (buildStart s)).mono fun t ht =>
        (⟨ht.cfg, ht.errCode, fun _ => ht.phase nofun⟩ : s.Unfailed t)).seq fun t ht => { ht with }
    have hgained : (buildBody s).Ends s.Gained := (buildBody_buildsOnly s).mono fun t ht =>
      .of_eq (congrArg State.snk ht :) (congrArg State.trace ht :)
    exact hunfailed.recorded hgained
  kinds hcfg k t e := by
    obtain ⟨u, tr, hu, -⟩ := buildBody_completes hcfg
    rw [hu] at e
    cases e

theorem walk_records (bound : Nat) (i : Idx) (len : Len) (bits : CodeBits) (s : State) :
    (walk bound i len bits s).Records [] s := by
  induction bound generalizing i len bits s with
  | zero => exact .stop nofun
  | succ bound ih =>
    exact .after (t := s.setPath len bits) (.of_eq rfl rfl id rfl rfl) <|
      .ite (fun _ => .update _ rfl rfl rfl rfl rfl) fun _ => (ih _ _ _ _).seq fun _ => ih _ _ _ _

theorem gencodesBody_records (s : State) : (gencodesBody s).Records [] s :=
  .after (t := gencodesStart s) (.of_eq rfl rfl (fun _ => nofun) rfl rfl) <|
    (walk_records _ _ _ _ _).seq fun _ => .update _ rfl rfl rfl rfl rfl

theorem wrmagicBody_records (s : State) : (wrmagicBody s).Records [] s :=
  .after (t := { s with phase := .wrmagic }) (.of_eq rfl rfl (fun _ => nofun) rfl rfl) <| sinkWrite_records _ _ _

theorem writeToken_records (n : Node) (s : State) : (writeToken n s).Records [] s := by
  unfold writeToken writeLeafToken writeNodeToken
  cases s.work.stk with
  | nil => exact .ite (fun _ => .stop nofun) fun _ => .stop nofun
  | cons e rest =>
    exact .ite
      (fun _ => (sinkWrite_records _ _ s).seq fun t => (sinkWrite_records _ _ t).seq fun _ => .update _ rfl rfl rfl rfl rfl)
      fun _ => (sinkWrite_records _ _ s).seq fun _ => .update _ rfl rfl rfl rfl rfl

theorem writeTokens_records (bound : Nat) (s : State) : (writeTokens bound s).Records [] s := by
  induction bound generalizing s with
  | zero => exact .stop nofun
  | succ bound ih =>
    unfold writeTokens
    split
    · exact .update _ rfl rfl rfl rfl rfl
    · exact (writeToken_records _ s).seq ih

theorem wrhdrBody_records (s : State) : (wrhdrBody s).Records [] s :=
  .after (t := wrhdrStart s) (.of_eq rfl rfl (fun _ => nofun) rfl rfl) <| writeTokens_records _ _

theorem emitBits_records {ks : List ErrKind} (bits : List Bool) (s : State) : (emitBits bits s).Records ks s := by
  induction bits generalizing s with
  | nil => exact .update _ rfl rfl rfl rfl rfl
  | cons b bs ih => exact (sinkWrite_records _ _ s).seq ih

theorem encodeLoop_records (bound : Nat) (s : State) : (encodeLoop bound s).Records [.noCode] s := by
  induction bound generalizing s with
  | zero => exact .stop nofun
  | succ bound ih =>
    refine (srcRead_records 8 s).bind fun v t => ?_
    cases v with
    | none => exact .update _ rfl rfl rfl rfl rfl
    | some w =>
      have hword : (encodeWord (w.setWidth 8) t).Records [.noCode] t :=
        .ite (fun _ => .raise (by simp)) fun _ => emitBits_records _ t
      exact hword.seq ih

theorem encbodyBody_records (s : State) : (encbodyBody s).Records [.noCode] s :=
  .after (t := { s with phase := .encbody }) (.of_eq rfl rfl (fun _ => nofun) rfl rfl) <|
    ((encodeLoop_records _ _).seq fun t => emitBits_records _ t).seq fun _ => .update _ rfl rfl rfl rfl rfl

theorem rdmagicBody_records (s : State) : (rdmagicBody s).Records [.badMagic] s :=
  .after (t := { s with phase := .rdmagic }) (.of_eq rfl rfl (fun _ => nofun) rfl rfl) <|
    (srcRead_records 32 _).bind fun v t => by
      cases v with
      | none => exact .raise (by simp)
      | some w => exact .ite (fun _ => .update _ rfl rfl rfl rfl rfl) fun _ => .raise (by simp)

theorem closeLeaf_recorded (i : Idx) (sym : Sym) (s : State) : s.Recorded (closeLeaf i sym s) := by
  obtain ⟨node, stk, h⟩ := attach_frame i s.work.stk (s.setNode i { s.nodeAt i with sym := sym })
  rw [closeLeaf, h]
  exact .of_eq rfl rfl id rfl rfl

theorem readLeafRest_records (s : State) : (readLeafRest s).Records [.truncatedHeader, .treeOverflow] s :=
  (alloc_records (by simp) _ s).bind fun i t => (srcRead_records 9 t).bind fun v u => by
    cases v with
    | none => exact .raise (by simp)
    | some w => exact .ok _ (closeLeaf_recorded i _ u)

theorem readToken_records (s : State) : (readToken s).Records [.truncatedHeader, .treeOverflow] s :=
  (srcRead_records 1 s).bind fun v t => by
    cases v with
    | none => exact .raise (by simp)
    | some b =>
      exact .ite (fun _ => readLeafRest_records t) fun _ =>
        (alloc_records (by simp) _ t).bind fun _ _ => .update _ rfl rfl rfl rfl rfl

theorem readTokens_records (bound : Nat) (s : State) :
    (readTokens bound s).Records [.truncatedHeader, .treeOverflow] s := by
  induction bound generalizing s with
  | zero => exact .stop nofun
  | succ bound ih =>
    exact (readToken_records s).seq fun t => .ite (fun _ => .update _ rfl rfl rfl rfl rfl) fun _ => ih t

theorem rdhdrBody_records (s : State) : (rdhdrBody s).Records [.truncatedHeader, .treeOverflow, .badTree] s :=
  .after (t := rdhdrStart s) (.of_eq rfl rfl (fun _ => nofun) rfl rfl) <|
    ((readTokens_records _ _).mono (by simp)).seq fun _ =>
      .ite (fun _ => .raise (by simp)) fun _ => .update _ rfl rfl rfl rfl rfl

theorem decodeLoop_records (bound : Nat) (s : State) : (decodeLoop bound s).Records [.truncatedBody] s := by
  induction bound generalizing s with
  | zero => exact .stop nofun
  | succ bound ih =>
    refine (srcRead_records 1 s).bind fun v t => ?_
    cases v with
    | none => exact .raise (by simp)
    | some b =>
      have hword (u : State) : (writeDecoded u).Records [.truncatedBody] u :=
        (sinkWrite_records _ _ u).seq fun _ => .update _ rfl rfl rfl rfl rfl
      exact .after (t := moveCursor (b.getLsbD 0) t) (.of_eq rfl rfl id rfl rfl) <|
        .ite (fun _ => .ite (fun _ => .update _ rfl rfl rfl rfl rfl) fun _ => (hword _).seq ih) fun _ => ih _

theorem decbodyBody_records (s : State) : (decbodyBody s).Records [.truncatedBody] s :=
  .after (t := { s with phase := .decbody, cursor := s.root }) (.of_eq rfl rfl (fun _ => nofun) rfl rfl) <|
    (decodeLoop_records _ _).seq fun _ => .update _ rfl rfl rfl rfl rfl

/-! ## CLOSE, COMPRESS and DECOMPRESS -/

/-- CLOSE raises no error. -/
theorem closeBody_reports {ks : List ErrKind} (s : State) : (closeBody s).Reports ks s where
  ends := (sinkClose_part.unfailed { s with phase := .close }).mono fun _ ht =>
    ⟨ht.cfg, ht.errCode, fun _ => ht.phase nofun⟩
  raises k t e := absurd e (closeBody_neverRaises s k t)

theorem compressBody_reports (s : State) : (compressBody s).Reports [.countOverflow, .noCode] s :=
  ((((analyzeBody_records s).mono (by simp)).seq fun t => (buildBody_records t).mono (by simp)).seq fun t =>
    (gencodesBody_records t).mono (by simp)).seq_reports fun t =>
      ((wrmagicBody_records t).mono (by simp)).seq_reports fun t => ((wrhdrBody_records t).mono (by simp)).seq_reports fun t =>
        ((encbodyBody_records t).mono (by simp)).seq_reports closeBody_reports

theorem decompressBody_reports (s : State) :
    (decompressBody s).Reports [.badMagic, .truncatedHeader, .treeOverflow, .badTree, .truncatedBody] s :=
  ((rdmagicBody_records s).mono (by simp)).seq_reports fun t => ((rdhdrBody_records t).mono (by simp)).seq_reports fun t =>
    ((decbodyBody_records t).mono (by simp)).seq_reports closeBody_reports

/-! ## Instructions -/

/-- From `s` the machine goes to `t` without an error, or by error entry with one of the kinds `ks`; up to an error entry it
comes to no close. -/
def State.Reports (ks : List ErrKind) (s t : State) : Prop :=
  (t.phase ≠ .error ∧ (s.errCode = none → t.errCode = none)) ∨
  ∃ k u, t = raiseErr k u ∧ s.Recorded u ∧ (s.cfg.wf = true → k ∈ ks)

/-- Error entry at once. -/
theorem State.Reports.of_raise {ks : List ErrKind} {k : ErrKind} (h : k ∈ ks) (s : State) : s.Reports ks (raiseErr k s) :=
  .inr ⟨k, s, rfl, .of_eq rfl rfl id rfl rfl, fun _ => h⟩

/-- A command raises `Sequence` for its prerequisite, or what its body raises (R153, R176). -/
theorem accept_reports {ks ks' : List ErrKind} {pre : State → Bool} {m : BitVec 2} {body : State → Res Unit} {s t : State}
    (hbody : ∀ u, (body u).Reports ks u) (hks : ks ⊆ ks') (hpre : pre s = true ∨ .sequence ∈ ks') (hi : s.isIdle)
    (h : accept pre m body s = .next t) : s.Reports ks' t := by
  have hstart : s.Recorded (s.start m) := .of_eq rfl rfl id rfl rfl
  have hends := (hbody (s.start m)).ends
  obtain ⟨hb, hph⟩ := hi
  rcases accept_cases h with ⟨hbusy | herr, -⟩ | ⟨-, -, hp, rfl⟩ | ⟨-, herr, -, ⟨u, hu, rfl⟩ | hu | ⟨k, u, hu, rfl⟩⟩
  · exact absurd (hb.symm.trans hbusy) nofun
  · exact absurd (hph.symm.trans herr) nofun
  · exact .of_raise (hpre.resolve_left (by simp [hp])) s
  · rw [hu] at hends
    exact .inl ⟨nofun, fun hnone => hends.errCode.trans hnone⟩
  · rw [hu] at hends
    exact .inl ⟨hends.phase herr, fun hnone => hends.errCode.trans hnone⟩
  · obtain ⟨hrec, hk⟩ := (hbody (s.start m)).raises k u hu
    exact .inr ⟨k, u, rfl, hstart.trans hrec, fun hcfg => hks (hk hcfg)⟩

theorem acceptIllegal_reports {s t : State} (hi : s.isIdle) (h : acceptIllegal s = .next t) :
    s.Reports [.illegalCmd] t := by
  obtain ⟨hb, hp⟩ := hi
  rcases acceptIllegal_cases s with ⟨hbusy | herr, -⟩ | ⟨-, -, e⟩
  · exact absurd (hb.symm.trans hbusy) nofun
  · exact absurd (hp.symm.trans herr) nofun
  · rw [e] at h
    cases h
    exact .of_raise (List.mem_singleton_self _) s

theorem execClear_reports {s t : State} (hi : s.isIdle) (h : execClear s = .next t) : s.Reports [] t := by
  rcases execClear_cases s with ⟨hbusy, -⟩ | ⟨-, e⟩
  · exact absurd (hi.1.symm.trans hbusy) nofun
  · rw [e] at h
    cases h
    exact .inl ⟨nofun, fun _ => rfl⟩

/-- What an instruction may raise from `IDLE` is what R171 gives it; a token is refused there. -/
theorem exec_reports {i : Instr} {s t : State} (hi : s.isIdle) (h : exec i s = .next t) : s.Reports (mayRaise i) t := by
  have hno (p : Phase) (hp : p ≠ .idle) : s.phase ≠ p := hi.2 ▸ hp.symm
  cases i with
  | analyze => exact accept_reports (fun u => (analyzeBody_records u).reports) (by simp [mayRaise]) (.inl rfl) hi h
  | build =>
    exact accept_reports (fun u => (buildBody_records u).reports) (by simp [mayRaise]) (.inr (by simp [mayRaise])) hi h
  | gencodes =>
    exact accept_reports (fun u => (gencodesBody_records u).reports) (by simp [mayRaise]) (.inr (by simp [mayRaise])) hi h
  | wrmagic => exact accept_reports (fun u => (wrmagicBody_records u).reports) (by simp [mayRaise]) (.inl rfl) hi h
  | wrhdr =>
    exact accept_reports (fun u => (wrhdrBody_records u).reports) (by simp [mayRaise]) (.inr (by simp [mayRaise])) hi h
  | encbody =>
    exact accept_reports (fun u => (encbodyBody_records u).reports) (by simp [mayRaise]) (.inr (by simp [mayRaise])) hi h
  | close => exact accept_reports (ks := []) closeBody_reports (by simp [mayRaise]) (.inl rfl) hi h
  | rdmagic => exact accept_reports (fun u => (rdmagicBody_records u).reports) (by simp [mayRaise]) (.inl rfl) hi h
  | rdhdr => exact accept_reports (fun u => (rdhdrBody_records u).reports) (by simp [mayRaise]) (.inl rfl) hi h
  | decbody =>
    exact accept_reports (fun u => (decbodyBody_records u).reports) (by simp [mayRaise]) (.inr (by simp [mayRaise])) hi h
  | compress => exact accept_reports compressBody_reports (by simp [mayRaise]) (.inl rfl) hi h
  | decompress => exact accept_reports decompressBody_reports (by simp [mayRaise]) (.inl rfl) hi h
  | clear => exact execClear_reports hi h
  | illegal0 | illegalE | illegalF | illegalDefault v => exact acceptIllegal_reports hi h
  | hdrNode =>
    rw [exec_hdrNode_of_other (hno _ nofun) (hno _ nofun)] at h
    cases h
  | hdrLeaf sym =>
    rw [exec_hdrLeaf_of_other sym (hno _ nofun) (hno _ nofun)] at h
    cases h
  | fileMagic =>
    rw [exec_fileMagic_of_other (hno _ nofun) (hno _ nofun)] at h
    cases h

/-- Settles O11: the phase `ERROR` comes from error entry, up to which the command comes to no close. -/
theorem errorEntryClearsTheFlagsAndLeavesTheSinkOpen : Obligations.ErrorEntryClearsTheFlagsAndLeavesTheSinkOpen := by
  unfold Obligations.ErrorEntryClearsTheFlagsAndLeavesTheSinkOpen
  intro i s t hi h ht
  rcases exec_reports hi h with ⟨hne, -⟩ | ⟨k, u, rfl, hu, -⟩
  · exact absurd ht hne
  · exact ⟨rfl, rfl, rfl, rfl, rfl, rfl, hu.closed, hu.record⟩

/-- Settles O12: a code that was not there before comes from error entry. -/
theorem commandsRaiseOnlyTheirKinds : Obligations.CommandsRaiseOnlyTheirKinds := by
  unfold Obligations.CommandsRaiseOnlyTheirKinds
  intro i s t k hcfg hi hnone _ h hk
  rcases exec_reports hi h with ⟨-, herr⟩ | ⟨k', u, rfl, -, hmem⟩
  · rw [herr hnone] at hk
    cases hk
  · cases hk
    exact hmem hcfg

end Sys2Proof.Machine
end

section
/-!
PROOF of O56 (MacroCommandFrames). COMPRESS and DECOMPRESS keep what all of their bodies keep: each body's view shows the registers
that are stated (`Keeps.view`), and one body after another keeps them too (`Keeps.seq`).
-/
namespace Sys2Proof.Machine

/-- What no step of COMPRESS changes (R151). -/
def State.compressFrame (s : State) : Config × BitVec 10 × Idx × List Bool × List HostAction × Reg :=
  (s.cfg, s.sel, s.cursor, s.src.bits, s.pending, s.rdata)

/-- What no step of DECOMPRESS changes (R152): the tables and registers that only COMPRESS makes are among it. -/
def State.decompressFrame (s : State) :
    Config × BitVec 10 × List Bool × List HostAction × Reg × Vector Count 256 × Vector Len 257 × Vector CodeBits 257 ×
      List QEntry × BitVec 9 × QEntry × QEntry × CodeBits × Len :=
  (s.cfg, s.sel, s.src.bits, s.pending, s.rdata, s.freq, s.codeLen, s.codeBits, s.pq, s.work.m, s.work.a, s.work.b,
    s.work.pathBits, s.work.pathLen)

theorem compressBody_keeps : Keeps State.compressFrame compressBody := by
  have hanalyze : Keeps State.compressFrame analyzeBody := analyzeBody_keeps.view State.compressFrame
  have hbuild : Keeps State.compressFrame buildBody := buildBody_buildsOnly.view State.compressFrame
  have hgencodes : Keeps State.compressFrame gencodesBody := gencodesBody_keeps.view State.compressFrame
  have hwrmagic : Keeps State.compressFrame wrmagicBody := wrmagicBody_keeps.view State.compressFrame
  have hwrhdr : Keeps State.compressFrame wrhdrBody := wrhdrBody_keeps.view State.compressFrame
  have hencbody : Keeps State.compressFrame encbodyBody := encbodyBody_keeps.view State.compressFrame
  have hclose : Keeps State.compressFrame closeBody := closeBody_keeps.view State.compressFrame
  exact ((hanalyze.seq hbuild).seq hgencodes).seq (hwrmagic.seq (hwrhdr.seq (hencbody.seq hclose)))

theorem decompressBody_keeps : Keeps State.decompressFrame decompressBody := by
  have hrdmagic : Keeps State.decompressFrame rdmagicBody := rdmagicBody_keeps.view State.decompressFrame
  have hrdhdr : Keeps State.decompressFrame rdhdrBody := rdhdrBody_keeps.view State.decompressFrame
  have hdecbody : Keeps State.decompressFrame decbodyBody := decbodyBody_keeps.view State.decompressFrame
  have hclose : Keeps State.decompressFrame closeBody := closeBody_keeps.view State.decompressFrame
  exact hrdmagic.seq (hrdhdr.seq (hdecbody.seq hclose))

/-- Settles O56: the acceptance and the bodies keep the frame. -/
theorem macroCommandFrames : Obligations.MacroCommandFrames := by
  unfold Obligations.MacroCommandFrames
  refine ⟨fun s t h => ?_, fun s t h => ?_⟩
  · have hframe : t.compressFrame = s.compressFrame := accept_keeps (f := State.compressFrame) compressBody_keeps h
    simpa only [State.compressFrame, Prod.mk.injEq] using hframe
  · have hframe : t.decompressFrame = s.decompressFrame := accept_keeps (f := State.decompressFrame) decompressBody_keeps h
    simpa only [State.decompressFrame, Prod.mk.injEq] using hframe

end Sys2Proof.Machine
end

section
/-!
PROOF of O60 (DecompressErrors). By O55 DECOMPRESS does what its commands do (`exec_decompress_of_error`), so its errors are those of
RDMAGIC (O52), of RDHDR (O41) and of DECBODY (O49), each after the completion of the commands before it (spec/60_exceptions.md
R172, R179).
-/
namespace Sys2Proof.Machine

/-- Where the commands of DECOMPRESS end in an error, DECOMPRESS ends in it, with the same sink (R152). -/
theorem exec_decompress_of_error {s u : State} (hcfg : s.cfg.wf = true) (hi : s.isIdle)
    (h : runCommands [.rdmagic, .rdhdr, .decbody, .close] s = .next u) :
    ∃ t, exec .decompress s = .next t ∧ t.errCode = u.errCode ∧ t.phase = u.phase ∧ t.snk = u.snk := by
  have hsame := decompressIsItsExpansion s hcfg hi
  rw [h] at hsame
  cases hexec : exec .decompress s with
  | next t =>
    rw [hexec] at hsame
    have hforget : t.forgetMacro = u.forgetMacro := Host.Outcome.next.inj hsame
    exact ⟨t, rfl, (congrArg State.errCode hforget :), (congrArg State.phase hforget :), (congrArg State.snk hforget :)⟩
  | fault r => rw [hexec] at hsame; cases hsame
  | refused r => rw [hexec] at hsame; cases hsame

/-- A list of commands ends with the first one that ends in an error (R73). -/
theorem runCommands_of_error {i : Instr} {is : List Instr} {s t : State} (h : exec i s = .next t) (ht : t.phase = .error) :
    runCommands (i :: is) s = .next t := by
  rw [runCommands_cons, h, thenCommands_of_not_idle is (by simp [ht])]

/-- A list of commands goes on after one that completes (R73). -/
theorem runCommands_of_idle {i : Instr} {is : List Instr} {s t : State} (h : exec i s = .next t) (ht : t.phase = .idle) :
    runCommands (i :: is) s = runCommands is t := by
  rw [runCommands_cons, h, thenCommands_of_idle is ht]

/-- RDMAGIC on the magic leaves an idle CORE before what follows it. -/
theorem exec_rdmagic_of_magic {s : State} {more : List Bool} (hi : s.isIdle) (hr : s.sourceReady)
    (h : s.src.rest = msbBits 32 s.cfg.magic ++ more) :
    ∃ t, exec .rdmagic s = .next t ∧ t.isIdle ∧ t.sourceReady ∧ t.src.rest = more ∧ t.snk = s.snk ∧ t.cfg = s.cfg := by
  obtain ⟨t, hexec, ht, -, -, hsrc, hsnk, -⟩ := (rdmagicAcceptsOnlyTheMagic s hi hr).1 more h
  have hready : t.sourceReady := by
    rw [State.sourceReady, hsrc]
    exact hr
  have hrest : t.src.rest = more := by
    rw [hsrc]
    exact State.advance_rest (s := s) 0#32 (msbBits_length 32 s.cfg.magic) h
  exact ⟨t, hexec, ht, hready, hrest, hsnk, (exec_streams _ hexec).1⟩

/-- RDHDR on a header that fits leaves an idle CORE with its tree before what follows it. -/
theorem exec_rdhdr_of_header {s : State} {tr : Tree} {more : List Bool} (hcfg : s.cfg.wf = true) (hi : s.isIdle)
    (hr : s.sourceReady) (h : s.src.rest = tr.header ++ more) (hint : tr.isInternal = true)
    (hsize : tr.size ≤ s.cfg.nodeCap) :
    ∃ t, exec .rdhdr s = .next t ∧ t.isIdle ∧ t.sourceReady ∧ t.src.rest = more ∧ t.snk = s.snk ∧ t.treeValid = true ∧
      t.tree = some tr := by
  obtain ⟨t, hexec, htree, -, -, -, hsrc, hsnk, hvalid, -, -, -, -, ht⟩ :=
    rdhdrReadsTheHeader s tr more hcfg hi hr h hint hsize
  have hready : t.sourceReady := by
    rw [State.sourceReady, hsrc]
    exact hr
  have hrest : t.src.rest = more := by
    rw [hsrc]
    exact State.advance_rest (s := s) (n := tr.header.length) 0#32 rfl h
  exact ⟨t, hexec, ht, hready, hrest, hsnk, hvalid, htree⟩

/-- Settles O60: RDMAGIC fails, or RDHDR after it, or DECBODY after both. -/
theorem decompressErrors : Obligations.DecompressErrors := by
  unfold Obligations.DecompressErrors
  refine fun s hcfg hi hr hk => ⟨fun v more hv h => ?_, fun tr cut more hsize hcut hne h => ?_,
    fun tr body out hint hsize h hout => ?_⟩
  · obtain ⟨u, hexec, herr, hph, -, hsnk⟩ := (rdmagicAcceptsOnlyTheMagic s hi hr).2.1 v more hv h
    obtain ⟨t, ht, herrt, hpht, hsnkt⟩ := exec_decompress_of_error hcfg hi (runCommands_of_error hexec hph)
    exact ⟨t, ht, herrt.trans herr, hpht.trans hph, hsnkt.trans hsnk⟩
  · obtain ⟨a, hmagic, hia, hra, hresta, hsnka, hcfga⟩ := exec_rdmagic_of_magic hi hr h
    obtain ⟨u, hexec, herr, hph, -, hsnk⟩ :=
      (rdhdrErrors a (hcfga ▸ hcfg) hia hra).1 tr more (.inl (hcfga ▸ hsize)) (hresta ▸ hcut) hne
    have hrun := (runCommands_of_idle hmagic hia.2).trans (runCommands_of_error (is := [.decbody, .close]) hexec hph)
    obtain ⟨t, ht, herrt, hpht, hsnkt⟩ := exec_decompress_of_error hcfg hi hrun
    exact ⟨t, ht, herrt.trans herr, hpht.trans hph, hsnkt.trans (hsnk.trans hsnka)⟩
  · rw [List.append_assoc] at h
    obtain ⟨a, hmagic, hia, hra, hresta, hsnka, hcfga⟩ := exec_rdmagic_of_magic hi hr h
    obtain ⟨b, hheader, hib, hrb, hrestb, hsnkb, hvalid, htree⟩ :=
      exec_rdhdr_of_header (hcfga ▸ hcfg) hia hra hresta hint (hcfga ▸ hsize)
    have hsnkbs : b.snk = s.snk := hsnkb.trans hsnka
    have hkb : b.sinkReady := by
      rw [State.sinkReady, hsnkbs]
      exact hk
    obtain ⟨u, hexec, herr, hph, hsnk, -⟩ := decbodyEndsOrRunsOut.1 b tr out hib hrb hkb hvalid htree hint (hrestb ▸ hout)
    have hrun := ((runCommands_of_idle hmagic hia.2).trans (runCommands_of_idle hheader hib.2)).trans
      (runCommands_of_error (is := [.close]) hexec hph)
    obtain ⟨t, ht, herrt, hpht, hsnkt⟩ := exec_decompress_of_error hcfg hi hrun
    refine ⟨t, ht, herrt.trans herr, hpht.trans hph, hsnkt.trans ?_⟩
    rw [hsnk, hsnkbs]

end Sys2Proof.Machine
end
